-- ==== Sys2Proof/Word.lean ====
section
/-! DEFINITION. The word types of the AffineCipher core: the payloads of its two ports and the contents of its
registers (spec/00_scope.md R9: CMDW = 32, RSPW = 16, KW = 8, CW = 8, IW = 5). -/

namespace Sys2Proof

/-- A command word, CMDW = 32 bits (R27, R38). -/
abbrev CommandWord := BitVec 32

/-- A response word, RSPW = 16 bits (R27, R42). -/
abbrev ResponseWord := BitVec 16

/-- The contents of A or B, KW = 8 bits, read in two's complement (R13). -/
abbrev KeyByte := BitVec 8

/-- The contents of INV_A, IW = 5 bits, read as an unsigned integer (R13). -/
abbrev InvWord := BitVec 5

/-- A character is its CW = 8-bit code (R9, R10). -/
abbrev CharCode := BitVec 8

end Sys2Proof
end

