-- ==== Sys2Proof/Syntax.lean ====
section
/-! DEFINITION. The commands of the AC26 command set, one constructor per row of spec/opcode_table.json. -/

namespace Sys2Proof

/-- A command with its operands as R47 decodes them. The key operands are the integers written in the assembler's
syntax (R48) and bounded in WellFormed; a character is its 8-bit code (R10). -/
inductive Instr where
  /-- `LOADKEY a, b`: validate `a`, compute its inverse, store the key (R58). -/
  | loadkey (a b : Int)
  /-- `ENC ch`: map one character forward (R69). -/
  | enc (ch : CharCode)
  /-- `DEC ch`: map one character backward (R71). -/
  | dec (ch : CharCode)
  deriving DecidableEq, Repr

end Sys2Proof
end

