-- ==== Sys2Proof/WellFormed.lean ====
section
/-! DEFINITION. Which commands have an encoding: a key operand fits its 8-bit field (spec/00_scope.md R9,
spec/30_encoding.md R40, R48). Every character code has one. -/

namespace Sys2Proof

/-- A key operand is an integer of KW = 8 bits, two's complement: -128..127 (R9, R40). -/
def fitsKeyField (x : Int) : Bool := decide (-128 ≤ x) && decide (x ≤ 127)

/-- The command can be written as a command word (R48). -/
def Instr.wellFormed : Instr → Bool
  | .loadkey a b => fitsKeyField a && fitsKeyField b
  | .enc _ => true
  | .dec _ => true

/-- `Instr.wellFormed` as a proposition. -/
abbrev Instr.WellFormed (i : Instr) : Prop := i.wellFormed = true

end Sys2Proof
end

