-- ==== Sys2Proof/Decode.lean ====
section
/-! DEFINITION. The decoder of command words, total and refusing by name (spec/30_encoding.md R39 to R47), and after it
the encoder, which writes the canonical word (R45, R48). A command word is a 32-bit vector on its port, never a
sequence of bytes (R29). -/

namespace Sys2Proof

/-- Why a word is no command (R44). -/
inductive DecodeError where
  /-- OP = 0b00, the reserved operation code (R41). -/
  | reservedOp
  /-- RSV is not zero (R39, R44). -/
  | reservedBits
  deriving DecidableEq, Repr

/-- OP, bits 31:30 (R39). -/
def opField (w : CommandWord) : BitVec 2 := w.extractLsb' 30 2

/-- RSV, bits 29:24 (R39). -/
def rsvField (w : CommandWord) : BitVec 6 := w.extractLsb' 24 6

/-- A, bits 23:16 (R39). -/
def aField (w : CommandWord) : KeyByte := w.extractLsb' 16 8

/-- B, bits 15:8 (R39). -/
def bField (w : CommandWord) : KeyByte := w.extractLsb' 8 8

/-- CH, bits 7:0 (R39). -/
def chField (w : CommandWord) : CharCode := w.extractLsb' 0 8

/-- The decoder of R47. The reserved operation code and the reserved bits are tested first (R99); fields a command does
not use are ignored (R45). -/
def decode (w : CommandWord) : Except DecodeError Instr :=
  if opField w = 0b00#2 then .error .reservedOp
  else if rsvField w ≠ 0#6 then .error .reservedBits
  else if opField w = 0b01#2 then .ok (.loadkey (aField w).toInt (bField w).toInt)
  else if opField w = 0b10#2 then .ok (.enc (chField w))
  else .ok (.dec (chField w))

/-- The two's complement byte of a key operand, its floor-mod by 256 (R48). -/
def keyField (x : Int) : KeyByte := BitVec.ofInt 8 x

/-- A word of format K with RSV = 0 (R39). -/
def formatK (op : BitVec 2) (a b : KeyByte) (ch : CharCode) : CommandWord := op ++ 0#6 ++ a ++ b ++ ch

/-- The canonical word of a command: zero in every field it does not use (R45, R48). -/
def encode : Instr → CommandWord
  | .loadkey a b => formatK 0b01#2 (keyField a) (keyField b) 0#8
  | .enc ch => formatK 0b10#2 0#8 0#8 ch
  | .dec ch => formatK 0b11#2 0#8 0#8 ch

/-- The command word whose bits `nbits - 1 .. 0` are those of `w` and whose bits above are zero. -/
def tableWord (nbits w : Nat) : CommandWord := BitVec.ofNat 32 (w % 2 ^ nbits)

/-- What the decoder reads from a word given as a number, in the numbering of spec/opcode_table.json. A command is one
word of exactly 32 bits (R38), so no longer one exists. -/
def decodeTableWord (nbits w : Nat) : Option Instr :=
  if nbits ≤ 32 then
    match decode (tableWord nbits w) with
    | .ok i => some i
    | .error _ => none
  else none

end Sys2Proof
end

