-- ==== Sys2Proof/Machine/State.lean ====
section
/-! DEFINITION. The state of the core (spec/10_state.md R13) with its response port (spec/20_memory.md R28) and the
actions of its host (spec/60_exceptions.md R109), as plain data; why a step can stop; and the state after reset. The
core has no memory, no program counter and no register file (R22, R26). -/

namespace Sys2Proof.Machine

/-- What the host may do (R109). -/
inductive HostAction where
  /-- Present a command word at the command port (R27). -/
  | command (w : CommandWord)
  /-- Take the pending response from the response port (R28). -/
  | take
  /-- Assert reset (R110). -/
  | reset
  deriving DecidableEq, Repr

/-- The state of one core and of what its host is still to do and has seen. -/
structure State where
  /-- A, the key multiplier, unreduced (R14). -/
  a : KeyByte
  /-- B, the additive shift, unreduced (R15). -/
  b : KeyByte
  /-- INV_A, the inverse of A modulo 26 (R16). -/
  invA : InvWord
  /-- KEY_VALID, the only flag (R17). -/
  keyValid : Bool
  /-- The response word the host has not taken yet (R28). -/
  response : Option ResponseWord
  /-- The host's coming actions, the next one first (R7, R109). DESIGN CHOICE; log 2. -/
  host : List HostAction
  /-- The response words the host has taken, the oldest first: the observation of a run (R7). DESIGN CHOICE; log 4. -/
  observed : List ResponseWord
  /-- The model's own counter: how many times a reset event has left the registers unspecified. DESIGN CHOICE; log 6. -/
  freeCount : Nat
  deriving DecidableEq, Repr

/-- Reasons a step can stop with a fault: none. Every command word gets a response and every error is a status in it
(R8, R92, R100), so no constructor exists and nobody raises one. DEDUCED, safe; log 8. -/
inductive Fault where
  deriving DecidableEq, Repr

/-- Reasons a step can refuse. -/
inductive Refusal where
  /-- Only an arm of `exec` for an instruction without a meaning would raise it, and no such arm is left. Safe. -/
  | notModelled (mnemonic : String)
  deriving DecidableEq, Repr

/-- The core right after reset (R24, R112): KEY_VALID = 0 and no response pending. The spec states no value for A, B and
INV_A; zero is the model's DESIGN CHOICE, unsafe (log 5), and nothing reads it before a key is loaded (R25). The host
has presented nothing and seen nothing (log 2, log 4). -/
def State.reset : State where
  a := 0#8
  b := 0#8
  invA := 0#5
  keyValid := false
  response := none
  host := []
  observed := []
  freeCount := 0

end Sys2Proof.Machine
end

