-- ==== Sys2Proof/Machine/Operands.lean ====
section
/-! DEFINITION. The operands the commands work on: the key operands, the key registers read as integers
(spec/30_encoding.md R40, spec/00_scope.md R10), and a character read by its case and position
(spec/41_char_map.md R67, R68). -/

namespace Sys2Proof.Machine

/-- A key operand as its 8-bit field holds it (R40, R48). A well-formed operand is unchanged by it; log 7. -/
def keyOperand (x : Int) : KeyByte := keyField x

/-- `sext_8`: an 8-bit value read in two's complement (R10). -/
def sext8 (v : KeyByte) : Int := v.toInt

/-- A as a mathematical integer (R14). -/
def State.aInt (s : State) : Int := sext8 s.a

/-- B as a mathematical integer (R15). -/
def State.bInt (s : State) : Int := sext8 s.b

/-- INV_A as a mathematical integer (R16). -/
def State.invAInt (s : State) : Int := s.invA.toNat

/-- The three kinds of character (R67). -/
inductive CharClass where
  | upper
  | lower
  | other
  deriving DecidableEq, Repr

/-- `classify` (R67): letters are exactly 0x41..0x5A and 0x61..0x7A. -/
def classify (ch : CharCode) : CharClass :=
  if 0x41 ≤ ch.toNat ∧ ch.toNat ≤ 0x5A then .upper
  else if 0x61 ≤ ch.toNat ∧ ch.toNat ≤ 0x7A then .lower
  else .other

/-- The position of a letter: its code minus the base of its case (R68). -/
def position (base : Nat) (ch : CharCode) : Int := (ch.toNat : Int) - (base : Int)

/-- The letter at a position of the case with that base (R51). -/
def letterAt (base : Nat) (p : Int) : CharCode := BitVec.ofNat 8 (base + p.toNat)

end Sys2Proof.Machine
end

