-- ==== Sys2Proof/Config.lean ====
section
/-! DEFINITION. What is fixed for this hardware (spec/00_scope.md R9), and what the spec leaves open: the free values
have no body, so no proof can use a value of theirs. -/

namespace Sys2Proof

/-- The modulus M, the alphabet size (R1, R9). -/
def Config.modulus : Int := 26

/-- BASE_U, the code of the first upper-case letter (R9, R51). -/
def Config.baseUpper : Nat := 0x41

/-- BASE_L, the code of the first lower-case letter (R9, R51). -/
def Config.baseLower : Nat := 0x61

/-- FREE VALUE (R24, R110: "A, B and INV_A become unspecified"): what A holds after the n-th reset event.
Safe for one core in one run (log 6). That all cores share this function is the model's choice: DESIGN CHOICE, unsafe;
log 13. -/
opaque Config.unspecifiedA : Nat → KeyByte

/-- FREE VALUE (R24, R110): what B holds after the n-th reset event. As for A: log 6, log 13. -/
opaque Config.unspecifiedB : Nat → KeyByte

/-- FREE VALUE (R24, R110): what INV_A holds after the n-th reset event, any of its 32 patterns. As for
A: log 6, log 13. -/
opaque Config.unspecifiedInvA : Nat → InvWord

/-- An order of the four bytes of a command word in a platform's byte-addressed memory: which byte of the word lies at
each of the four addresses, any of the 24 arrangements. R29 leaves the order open and gives the parameter no set of
values; that it is one of these is the model's. DESIGN CHOICE, unsafe; log 14. -/
abbrev ByteOrder := Equiv.Perm (Fin 4)

/-- The one OPEN parameter of the spec, `PLATFORM_CMD_BYTE_ORDER` (R29, U13): the platform's, and read by no rule, so
nothing here reads it. That it is a constant with no body: DESIGN CHOICE, safe; log 9. What values it can have: log 14. -/
opaque Config.platformCmdByteOrder : ByteOrder

end Sys2Proof
end

