-- ==== Sys2Proof/Machine/Flags.lean ====
section
/-! DEFINITION. The one flag, KEY_VALID (spec/10_state.md R17). No command sets a flag as a side effect of computing a
value. -/

namespace Sys2Proof.Machine

/-- KEY_VALID = 1: a key is held (R12, R17). -/
def State.keyHeld (s : State) : Bool := s.keyValid

/-- KEY_VALID <- 1, which only a passing LOADKEY does (R17, R58). -/
def State.setKeyValid (s : State) : State := { s with keyValid := true }

/-- KEY_VALID <- 0, which only the reset event does (R17, R110). -/
def State.clearKeyValid (s : State) : State := { s with keyValid := false }

end Sys2Proof.Machine
end

