-- ==== Sys2Proof/Machine/Ops.lean ====
section
/-! DEFINITION. The shared operations: the floor-mod (spec/41_char_map.md R65), the response word
(spec/30_encoding.md R42, R43), answering, raising an error (spec/60_exceptions.md R92), the atomic write of a key
(spec/40_key_load.md R58) and the reset event (spec/70_reset_and_hazards.md R110). An error has no entry and no return
beyond its response: nothing is saved and control goes nowhere (R100, R101). -/

namespace Sys2Proof.Machine

/-- The floor-mod by 26, from its definition `x - 26 * floor(x / 26)` (R10, R65). -/
def floorMod (x : Int) : Int := x - Config.modulus * Int.fdiv x Config.modulus

/-- The status of a response (R43). -/
inductive Status where
  /-- The command did what its rule says. -/
  | ok
  /-- LOADKEY with `a` not coprime with 26 (R93). -/
  | invalidKey
  /-- ENC or DEC while KEY_VALID = 0 (R94). -/
  | noKey
  /-- Reserved OP or non-zero RSV (R95). -/
  | illegalCmd
  deriving DecidableEq, Repr

/-- The ST code of a status (R43). -/
def Status.code : Status → BitVec 2
  | .ok => 0b00#2
  | .invalidKey => 0b01#2
  | .noKey => 0b10#2
  | .illegalCmd => 0b11#2

/-- The response word: ST in 15:14, a zero in 13, INV in 12:8, CH in 7:0 (R42). -/
def responseWord (st : Status) (inv : InvWord) (ch : CharCode) : ResponseWord := st.code ++ 0#1 ++ inv ++ ch

/-- Put a response word at the response port (R28). -/
def State.respond (s : State) (r : ResponseWord) : State := { s with response := some r }

/-- `raise` (R92): the command ends with that error's status, INV = 0 and CH = 0, and no state element is written. -/
def raise (e : Status) (s : State) : Host.Outcome State Fault Refusal :=
  .next (s.respond (responseWord e 0#5 0#8))

/-- Answer ST = OK with the given INV and CH (R42). -/
def answerOk (inv : InvWord) (ch : CharCode) (s : State) : Host.Outcome State Fault Refusal :=
  .next (s.respond (responseWord .ok inv ch))

/-- The one atomic write of a key: A, B, INV_A and KEY_VALID together (R58). -/
def State.writeKey (s : State) (a b : KeyByte) (inv : InvWord) : State :=
  ({ s with a := a, b := b, invA := inv } : State).setKeyValid

/-- A, B and INV_A become unspecified (R24, R110): free values, fresh at each event of one core. Safe for one
core in one run (log 6). Whether two cores' values agree after a reset is left open (R24, R106, R110); here they
come from one function of the counter, so cores with equal counters get equal values: DESIGN CHOICE, unsafe; log 13. -/
def State.forgetKey (s : State) : State :=
  { s with
    a := Config.unspecifiedA s.freeCount
    b := Config.unspecifiedB s.freeCount
    invA := Config.unspecifiedInvA s.freeCount
    freeCount := s.freeCount + 1 }

/-- Drop a response the host has not taken (R110, R111). -/
def State.dropResponse (s : State) : State := { s with response := none }

/-- The whole effect of the reset event on the core (R110). -/
def State.resetEvent (s : State) : State := s.forgetKey.clearKeyValid.dropResponse

end Sys2Proof.Machine
end

