-- ==== Sys2Proof/Machine/CharMap.lean ====
section
/-! DEFINITION. ENC and DEC, the character mapper CHARMAP (spec/41_char_map.md R65 to R77). -/

namespace Sys2Proof.Machine

/-- Apply a map of positions to a letter within its case; every other code passes through (R69, R71, R72). -/
def mapLetter (f : Int → Int) (ch : CharCode) : CharCode :=
  match classify ch with
  | .upper => letterAt Config.baseUpper (f (position Config.baseUpper ch))
  | .lower => letterAt Config.baseLower (f (position Config.baseLower ch))
  | .other => ch

/-- The forward map of positions: `(A * p + B) mod 26` (R69). -/
def forward (a b p : Int) : Int := floorMod (a * p + b)

/-- The backward map of positions: `(INV_A * (c - B)) mod 26` (R70, R71). -/
def backward (inv b c : Int) : Int := floorMod (inv * (c - b))

/-- A character mapper answers NO_KEY when no key is held, before it looks at the character (R72, R94); otherwise
ST = OK and the mapped character. It writes no state (R75). -/
def mapChar (f : Int → Int) (ch : CharCode) (s : State) : Host.Outcome State Fault Refusal :=
  if s.keyHeld then answerOk 0#5 (mapLetter f ch) s else raise .noKey s

/-- The meaning of ENC (R69): reads A and B. -/
def execEnc (ch : CharCode) (s : State) : Host.Outcome State Fault Refusal :=
  mapChar (forward s.aInt s.bInt) ch s

/-- The meaning of DEC (R71): reads INV_A and B, not A (R76). -/
def execDec (ch : CharCode) (s : State) : Host.Outcome State Fault Refusal :=
  mapChar (backward s.invAInt s.bInt) ch s

end Sys2Proof.Machine
end

