-- ==== Sys2Proof/Machine/KeyLoad.lean ====
section
/-! DEFINITION. LOADKEY with its two units: the validity gate KEYCHK (spec/40_key_load.md R52) and the modular inverse
calculator MODINV (R54, R55). -/

namespace Sys2Proof.Machine

/-- KEYCHK (R52): `gcd(a, 26) = 1`, the gcd of a negative number taken on its absolute value. -/
def keychk (a : Int) : Bool := decide (Int.gcd a Config.modulus = 1)

/-- VALID_A (R53): the valid residues. -/
def validA : List Nat := [1, 3, 5, 7, 9, 11, 15, 17, 19, 21, 23, 25]

/-- VALID_A as a 26-bit mask, bit r for the member r (R53). -/
def validAMask : BitVec 26 := 0x2AA8AAA#26

/-- The loop of R55 from index `i` with `fuel` indices left: the first index whose product has residue 1. -/
def modinvSearch (a : Int) : (fuel i : Nat) → Option Nat
  | 0, _ => none
  | fuel + 1, i => if floorMod (a * i) = 1 then some i else modinvSearch a fuel (i + 1)

/-- MODINV (R54, R55): the smallest `i` in 0..25 with `(a * i) mod 26 = 1`, found by linear search. -/
def modinv26 (a : Int) : Option Nat := modinvSearch a 26 0

/-- How often the loop of R55 evaluates its test when it stops at the first hit. -/
def searchTests (a : Int) : (fuel i : Nat) → Nat
  | 0, _ => 0
  | fuel + 1, i => if floorMod (a * i) = 1 then 1 else searchTests a fuel (i + 1) + 1

/-- The tests one LOADKEY evaluates: none when the gate stops it (R57, R121). Informative: no state depends on it. -/
def loadkeyTests (a : Int) : Nat := if keychk a then searchTests a 26 0 else 0

/-- LOADKEY on its two operand fields (R58): the gate always first (R57), then the search, then one atomic write and the
inverse in the response; a search that found nothing would be answered as a failing gate is (R61). -/
def loadKey (a b : KeyByte) (s : State) : Host.Outcome State Fault Refusal :=
  if keychk (sext8 a) then
    match modinv26 (sext8 a) with
    | some i => answerOk (BitVec.ofNat 5 i) 0#8 (s.writeKey a b (BitVec.ofNat 5 i))
    | none => raise .invalidKey s
  else raise .invalidKey s

/-- The meaning of LOADKEY (R58). -/
def execLoadkey (a b : Int) (s : State) : Host.Outcome State Fault Refusal :=
  loadKey (keyOperand a) (keyOperand b) s

end Sys2Proof.Machine
end

