-- ==== Sys2Proof/Machine/Dispatch.lean ====
section
/-! DEFINITION. One arm per command of the AC26 command set (spec/30_encoding.md R41). -/

namespace Sys2Proof.Machine

def exec (i : Instr) (s : State) : Host.Outcome State Fault Refusal :=
  match i with
  | .loadkey a b => Sys2Proof.Machine.execLoadkey a b s
  | .enc ch => Sys2Proof.Machine.execEnc ch s
  | .dec ch => Sys2Proof.Machine.execDec ch s

end Sys2Proof.Machine
end

