-- ==== Sys2Proof/Machine/Ports.lean ====
section
/-! DEFINITION. The ports (spec/20_memory.md R27, R28) and the host's next action on them (spec/60_exceptions.md R109).
An action that is not allowed yet waits: nothing is lost and nothing times out (R117). -/

namespace Sys2Proof.Machine

/-- What the core meets at its ports. -/
inductive PortEvent where
  /-- A command transfer: the word, and the core as it stands when the command executes. -/
  | command (w : CommandWord) (s : State)
  /-- Anything else: the state it leaves. -/
  | quiet (s : State)
  deriving DecidableEq, Repr

/-- The core holds no response that the host has not taken, so it may take a command (R28). -/
def State.ready (s : State) : Bool := s.response.isNone

/-- The response transfer: the host has the word, and the core is free for the next command (R28, R31). -/
def State.deliver (s : State) (r : ResponseWord) : State :=
  { s with response := none, observed := s.observed ++ [r] }

/-- The host's next action, done if it is allowed now (R109), else left waiting (R117, U12; DESIGN CHOICE, log 3). With
no action left the core is idle and holds its state (R7, R108). -/
def nextPortEvent (s : State) : PortEvent :=
  match s.host with
  | [] => .quiet s
  | .command w :: rest => if s.ready then .command w { s with host := rest } else .quiet s
  | .take :: rest =>
    match s.response with
    | some r => .quiet (({ s with host := rest } : State).deliver r)
    | none => .quiet s
  | .reset :: rest => .quiet (({ s with host := rest } : State).resetEvent)

/-- A word that is no command: ILLEGAL_CMD, whatever the state (R44, R95). -/
def answerIllegal (s : State) : Host.Outcome State Fault Refusal := raise .illegalCmd s

/-- Present this word next, at a core that is ready for it. -/
def State.presentNext (s : State) (w : CommandWord) : State :=
  { s with host := .command w :: s.host, response := none }

end Sys2Proof.Machine
end

