-- ==== Sys2Proof/Machine/Step.lean ====
section
/-! DEFINITION. One step: the host's next action, and with a command transfer the whole command, atomically
(spec/00_scope.md R7, R8; DEDUCED, log 1). -/

namespace Sys2Proof.Machine

/-- Execute one command word: the check for an illegal word comes before anything else (R99). -/
def runWord (w : CommandWord) (s : State) : Host.Outcome State Fault Refusal :=
  match decode w with
  | .ok i => exec i s
  | .error _ => answerIllegal s

/-- One step of the core and its host (R7). -/
def step (s : State) : Host.Outcome State Fault Refusal :=
  match nextPortEvent s with
  | .command w s' => runWord w s'
  | .quiet s' => .next s'

/-- `s` with that word as the host's next action, at a core with no untaken response, so that the very next step takes
and runs it. Commands come from outside the core (R22, R27): this stands for the host presenting one; log 2. -/
def State.withFetchWord (s : State) (nbits w : Nat) : State := s.presentNext (tableWord nbits w)

end Sys2Proof.Machine
end

