-- ==== Sys2Proof/Machine/CommandLevel.lean ====
section
/-! DEFINITION. The core at command level, as spec/00_scope.md R8 describes it (`step : State -> Command -> State x
Response`), over the key as spec/10_state.md R13 lets a model hold it: an optional key of unbounded integers. It is
written apart from the register machine, from other equal forms the spec gives: the gate as "odd and not a multiple of
13" (R52), the inverse from the table of R56 (R62), words as numbers. The register machine is the model; this is the
other side of a refinement, and no step reads it. -/

namespace Sys2Proof.Machine

/-- A constructed key (R12, R13). -/
structure Key where
  a : Int
  b : Int
  inv : Nat
  deriving DecidableEq, Repr

/-- `sext_8` of a byte given as a number: `v` if `v < 128`, else `v - 256` (R10). -/
def signedByte (v : Nat) : Int := if v < 128 then (v : Int) else (v : Int) - 256

/-- The table of R56, from `a mod 26` to the inverse. -/
def inverseTable : List (Nat × Nat) :=
  [(1, 1), (3, 9), (5, 21), (7, 15), (9, 3), (11, 19), (15, 7), (17, 23), (19, 11), (21, 5), (23, 17), (25, 25)]

/-- The inverse by lookup of `a mod 26` (R56, R62); 0 where the table has no row. -/
def inverseByTable (a : Int) : Nat := ((inverseTable.lookup (a % 26).toNat)).getD 0

/-- A map of positions applied to a character code (R67, R69, R71). -/
def mapCode (f : Int → Int) (n : Nat) : Nat :=
  if 0x41 ≤ n ∧ n ≤ 0x5A then 0x41 + (f ((n : Int) - 0x41)).toNat
  else if 0x61 ≤ n ∧ n ≤ 0x7A then 0x61 + (f ((n : Int) - 0x61)).toNat
  else n

/-- One command word: the key afterwards and the response (R8, R47, R58, R69, R71). -/
def commandStep (k : Option Key) (w : CommandWord) : Option Key × ResponseWord :=
  let top := w.toNat / 0x1000000
  let a := signedByte (w.toNat / 0x10000 % 0x100)
  let b := signedByte (w.toNat / 0x100 % 0x100)
  let ch := w.toNat % 0x100
  if top = 0x40 then
    if a % 2 = 1 ∧ a % 13 ≠ 0 then
      (some ⟨a, b, inverseByTable a⟩, BitVec.ofNat 16 (0x100 * inverseByTable a))
    else (k, 0x4000#16)
  else if top = 0x80 then
    match k with
    | none => (none, 0x8000#16)
    | some key => (k, BitVec.ofNat 16 (mapCode (fun p => (key.a * p + key.b) % 26) ch))
  else if top = 0xC0 then
    match k with
    | none => (none, 0x8000#16)
    | some key => (k, BitVec.ofNat 16 (mapCode (fun c => (key.inv * (c - key.b)) % 26) ch))
  else (k, 0xC000#16)

/-- A sequence of command words: the key afterwards and the responses in order (R28, R34). -/
def commandRun (k : Option Key) : List CommandWord → Option Key × List ResponseWord
  | [] => (k, [])
  | w :: ws =>
    ((commandRun (commandStep k w).1 ws).1, (commandStep k w).2 :: (commandRun (commandStep k w).1 ws).2)

/-- The key a core holds: `none` is KEY_VALID = 0 (R13). -/
def State.view (s : State) : Option Key := if s.keyValid then some ⟨s.a.toInt, s.b.toInt, s.invA.toNat⟩ else none

end Sys2Proof.Machine
end

