-- ==== Sys2Proof/Machine/Several.lean ====
section
/-! DEFINITION. Several cores (spec/60_exceptions.md R106): the product of copies of the one-core model, of which any one
may make the next step. They share no state and have no identifiers; the place in the list is the caller's.
DESIGN CHOICE, safe; log 10. Cores whose reset counters are equal draw equal unspecified values: DESIGN CHOICE, unsafe;
log 13. -/

namespace Sys2Proof.Machine

/-- Let the core at place `k` make one step; with no core there, nothing happens. -/
def stepAt (k : Nat) (cores : List State) : Host.Outcome (List State) Fault Refusal :=
  match cores[k]? with
  | none => .next cores
  | some s =>
    match step s with
    | .next t => .next (cores.set k t)
    | .fault f => .fault f
    | .refused r => .refused r

end Sys2Proof.Machine
end

