-- ==== Sys2Proof/Machine/Text.lean ====
section
/-! DEFINITION. The pseudo-instructions ENCRYPT and DECRYPT (spec/30_encoding.md R49): one command per character, first
character first, and the host takes each response before it presents the next command (spec/42_text_and_laws.md R78,
R79). DEDUCED; log 12. -/

namespace Sys2Proof.Machine

/-- One exchange with the core: present the canonical word of a command and take its response (R28, R48). -/
def exchange (i : Instr) : List HostAction := [.command (encode i), .take]

/-- `ENCRYPT t` (R49, R78). -/
def encryptActions (t : List CharCode) : List HostAction := t.flatMap fun ch => exchange (.enc ch)

/-- `DECRYPT t` (R49, R79). -/
def decryptActions (t : List CharCode) : List HostAction := t.flatMap fun ch => exchange (.dec ch)

/-- The response that carries an output character with ST = OK (R42, R43). -/
def okCharWord (ch : CharCode) : ResponseWord := 0#8 ++ ch

end Sys2Proof.Machine
end

