-- ==== Sys2Proof/Safety.lean ====
section
/-! DEFINITION. The terms claims are stated in: what an outcome answers, a run of several steps, the key invariant
(spec/10_state.md R18) and the complete set of response words (spec/30_encoding.md R43). -/

namespace Sys2Proof.Machine

/-- The next state of an outcome, if it is one. -/
def nextOf : Host.Outcome State Fault Refusal → Option State
  | .next t => some t
  | .fault _ => none
  | .refused _ => none

/-- The response word pending after an outcome. -/
def answerOf (o : Host.Outcome State Fault Refusal) : Option ResponseWord := (nextOf o).bind fun t => t.response

/-- `n` steps, one host action each (R7). -/
def runSteps : Nat → State → Host.Outcome State Fault Refusal
  | 0, s => .next s
  | n + 1, s =>
    match step s with
    | .next t => runSteps n t
    | .fault f => .fault f
    | .refused r => .refused r

/-- The key invariant (R18): a held key has a multiplier coprime with 26 and its inverse. -/
abbrev State.KeyInv (s : State) : Prop :=
  s.keyValid = true → Int.gcd s.a.toInt 26 = 1 ∧ s.invA.toNat < 26 ∧ (s.a.toInt * s.invA.toNat) % 26 = 1

/-- The complete set of response words that can ever appear (R43). -/
def legalResponse (r : ResponseWord) : Bool :=
  decide (r.toNat < 0x100) || validA.any (fun i => r == BitVec.ofNat 16 (0x100 * i)) ||
    r == 0x4000#16 || r == 0x8000#16 || r == 0xC000#16

/-- The invariant of the core and its response port: the key invariant, and every response pending or taken is one that
can appear (R18, R43). -/
abbrev State.Inv (s : State) : Prop :=
  s.KeyInv ∧ s.response.all legalResponse = true ∧ s.observed.all legalResponse = true

/-- The next action of the host, if any (R109). -/
def State.nextAction (s : State) : Option HostAction := s.host.head?

/-- How many commands the host is still to present. -/
def commandsIn : List HostAction → Nat
  | [] => 0
  | .command _ :: rest => commandsIn rest + 1
  | .take :: rest => commandsIn rest
  | .reset :: rest => commandsIn rest

/-- Responses taken, a response pending, and commands still to come: what one response per command keeps constant
(R28). -/
def State.exchanges (s : State) : Nat :=
  s.observed.length + (if s.response.isSome then 1 else 0) + commandsIn s.host

end Sys2Proof.Machine
end

