-- ==== Sys2Proof/Certificates/Slice0/Obligations.lean ====
section
/-! DEFINITION. What is to be proved of the model. Each statement's docstring names the rules of spec/ it formalises.
Integers are read from the registers with `toInt` (two's complement) and `toNat`; `%` on `Int` with the divisor 26 is
the floor-mod (R66). -/

open Sys2Proof Sys2Proof.Machine

/-! ### Encoding -/

/-- R50: the eleven worked encodings. -/
def Obligations.WorkedEncodingsDecode : Prop :=
  (encode (.loadkey 5 8) = 0x40050800#32 ∧ decode 0x40050800#32 = .ok (.loadkey 5 8)) ∧
  (encode (.loadkey 1 0) = 0x40010000#32 ∧ decode 0x40010000#32 = .ok (.loadkey 1 0)) ∧
  (encode (.loadkey (-1) (-3)) = 0x40FFFD00#32 ∧ decode 0x40FFFD00#32 = .ok (.loadkey (-1) (-3))) ∧
  (encode (.loadkey 13 0) = 0x400D0000#32 ∧ decode 0x400D0000#32 = .ok (.loadkey 13 0)) ∧
  (encode (.loadkey 127 (-128)) = 0x407F8000#32 ∧ decode 0x407F8000#32 = .ok (.loadkey 127 (-128))) ∧
  (encode (.enc 0x48#8) = 0x80000048#32 ∧ decode 0x80000048#32 = .ok (.enc 0x48#8)) ∧
  (encode (.enc 0x20#8) = 0x80000020#32 ∧ decode 0x80000020#32 = .ok (.enc 0x20#8)) ∧
  (encode (.dec 0x52#8) = 0xC0000052#32 ∧ decode 0xC0000052#32 = .ok (.dec 0x52#8)) ∧
  (encode (.dec 0x7A#8) = 0xC000007A#32 ∧ decode 0xC000007A#32 = .ok (.dec 0x7A#8)) ∧
  decode 0x00000000#32 = .error .reservedOp ∧
  decode 0x41050800#32 = .error .reservedBits

/-- R45, R47, R48: every well-formed command survives encoding and decoding, with every operand. -/
def Obligations.DecodeOfEncodeIsTheCommand : Prop :=
  ∀ i : Instr, i.WellFormed → decode (encode i) = .ok i

/-- R41, R47, with the operands of R40: the top byte decides the command, and every other top byte is illegal. -/
def Obligations.TopByteDecidesTheCommand : Prop :=
  ∀ w : CommandWord,
    (w.toNat / 0x1000000 = 0x40 → decode w =
      .ok (.loadkey (signedByte (w.toNat / 0x10000 % 0x100)) (signedByte (w.toNat / 0x100 % 0x100)))) ∧
    (w.toNat / 0x1000000 = 0x80 → decode w = .ok (.enc (BitVec.ofNat 8 (w.toNat % 0x100)))) ∧
    (w.toNat / 0x1000000 = 0xC0 → decode w = .ok (.dec (BitVec.ofNat 8 (w.toNat % 0x100)))) ∧
    (w.toNat / 0x1000000 ≠ 0x40 ∧ w.toNat / 0x1000000 ≠ 0x80 ∧ w.toNat / 0x1000000 ≠ 0xC0 →
      ∃ e, decode w = .error e)

/-- R45: decode followed by encode gives the canonical word, with zero in the ignored fields, and the canonical word is
the same command; so it executes as the word does, in every state. -/
def Obligations.IgnoredFieldsChangeNothing : Prop :=
  ∀ (w : CommandWord) (i : Instr), decode w = .ok i →
    i.WellFormed ∧
    (encode i).toNat = (match i with
      | .loadkey _ _ => w.toNat / 0x100 * 0x100
      | .enc _ => w.toNat / 0x1000000 * 0x1000000 + w.toNat % 0x100
      | .dec _ => w.toNat / 0x1000000 * 0x1000000 + w.toNat % 0x100) ∧
    decode (encode i) = .ok i ∧
    ∀ (s : State) (rest : List HostAction), s.response = none →
      step { s with host := .command w :: rest } = step { s with host := .command (encode i) :: rest }

/-! ### The ports and the step -/

/-- R7, R28: a word the host presents to a core that holds no response, and that decodes to a command, is executed in
that step; around the command the step only removes the host's action. -/
def Obligations.StepRunsThePresentedCommand : Prop :=
  ∀ (s : State) (w : CommandWord) (rest : List HostAction) (i : Instr),
    s.host = .command w :: rest → s.response = none → decode w = .ok i →
      step s = exec i { s with host := rest }

/-- R44, R95: an illegal word is answered ILLEGAL_CMD, response 0xC000, in every state, and changes nothing else. -/
def Obligations.IllegalWordAnswersIllegalCmd : Prop :=
  ∀ (s : State) (w : CommandWord) (rest : List HostAction),
    s.host = .command w :: rest → s.response = none →
    (w.toNat / 0x40000000 = 0 ∨ w.toNat / 0x1000000 % 0x40 ≠ 0) →
      step s = .next { s with host := rest, response := some 0xC000#16 }

/-- R28, R117: the core does not take a command while a response is untaken; it waits and loses nothing. That a host
action waits rather than is dropped is the model's choice (log 3). -/
def Obligations.UntakenResponseHoldsBackTheNextCommand : Prop :=
  ∀ (s : State) (w : CommandWord) (rest : List HostAction) (r : ResponseWord),
    s.host = .command w :: rest → s.response = some r → step s = .next s

/-- R28, R31: taking a response hands the host that word, frees the core and changes no state element. The record of
taken words is the model's (log 4). -/
def Obligations.TakingAResponseFreesTheCore : Prop :=
  ∀ (s : State) (rest : List HostAction) (r : ResponseWord),
    s.host = .take :: rest → s.response = some r →
      step s = .next { s with host := rest, response := none, observed := s.observed ++ [r] }

/-- R7, R108: with no host action the core is idle and holds its state. -/
def Obligations.IdleCoreHoldsItsState : Prop :=
  ∀ s : State, s.host = [] → step s = .next s

/-- R110, R111: the reset event clears KEY_VALID and discards a response not yet taken, whatever the state; what A, B
and INV_A hold afterwards is not stated, being free (log 6). -/
def Obligations.ResetEventLeavesNoKeyAndNoResponse : Prop :=
  ∀ (s : State) (rest : List HostAction), s.host = .reset :: rest →
    ∃ t, step s = .next t ∧ t.keyValid = false ∧ t.response = none ∧ t.host = rest ∧ t.observed = s.observed

/-- R8, R47: the step is total: it always answers a next state, never a fault or a refusal. -/
def Obligations.EveryStepAnswersANextState : Prop :=
  ∀ s : State, ∃ t, step s = .next t

/-- R28: exactly one response per command: but for a reset, no step changes the number of responses taken, pending, and
commands still to come. That an action not allowed yet waits is the model's choice (log 3). -/
def Obligations.OneResponsePerCommand : Prop :=
  ∀ s t : State, step s = .next t → s.nextAction ≠ some .reset → t.exchanges = s.exchanges

/-- R99: the order of checks on one command word, first match wins, read off the ST field of the response. -/
def Obligations.StatusFollowsTheOrderOfChecks : Prop :=
  ∀ (s : State) (w : CommandWord) (rest : List HostAction),
    s.host = .command w :: rest → s.response = none →
    ∃ t r, step s = .next t ∧ t.response = some r ∧
      r.toNat / 0x4000 =
        if w.toNat / 0x40000000 = 0 ∨ w.toNat / 0x1000000 % 0x40 ≠ 0 then 3
        else if (w.toNat / 0x40000000 = 2 ∨ w.toNat / 0x40000000 = 3) ∧ s.keyValid = false then 2
        else if w.toNat / 0x40000000 = 1 ∧ Int.gcd (signedByte (w.toNat / 0x10000 % 0x100)) 26 ≠ 1 then 1
        else 0

/-- R93, R94, R95: each error word is answered exactly when its cause holds (R92): INVALID_KEY for a LOADKEY with `a` not
coprime with 26 and for nothing else, NO_KEY for ENC and DEC without a key, whatever the character, and for nothing
else, ILLEGAL_CMD for an illegal word and for nothing else; and an error writes no state. -/
def Obligations.EachErrorHasExactlyItsCause : Prop :=
  ∀ (s : State) (w : CommandWord) (rest : List HostAction),
    s.host = .command w :: rest → s.response = none →
    ∃ t, step s = .next t ∧
      (t.response = some 0x4000#16 ↔ w.toNat / 0x1000000 = 0x40 ∧
        Int.gcd (signedByte (w.toNat / 0x10000 % 0x100)) 26 ≠ 1) ∧
      (t.response = some 0x8000#16 ↔ s.keyValid = false ∧
        (w.toNat / 0x1000000 = 0x80 ∨ w.toNat / 0x1000000 = 0xC0)) ∧
      (t.response = some 0xC000#16 ↔ w.toNat / 0x40000000 = 0 ∨ w.toNat / 0x1000000 % 0x40 ≠ 0) ∧
      ∀ e ∈ [0x4000#16, 0x8000#16, 0xC000#16], t.response = some e →
        t = { s with host := rest, response := some e }

/-- R43: the response to a command is always a member of the complete set. -/
def Obligations.EveryResponseIsInTheCompleteSet : Prop :=
  ∀ (s : State) (w : CommandWord) (rest : List HostAction),
    s.host = .command w :: rest → s.response = none →
    ∃ t r, step s = .next t ∧ t.response = some r ∧
      ((∃ i ∈ [1, 3, 5, 7, 9, 11, 15, 17, 19, 21, 23, 25], r.toNat = 0x100 * i) ∨ r = 0x4000#16 ∨ r.toNat < 0x100 ∨
        r = 0x8000#16 ∨ r = 0xC000#16)

/-! ### LOADKEY -/

/-- R58: the words of LOADKEY with every CH field, and its pseudocode on every operand, in every state. -/
def Obligations.LoadkeyFollowsItsPseudocode : Prop :=
  ∀ (a b : Int) (s : State), -128 ≤ a → a ≤ 127 → -128 ≤ b → b ≤ 127 →
    (∀ ch : Nat, ch < 0x100 →
      decode (BitVec.ofNat 32 (0x40000000 + (a % 256).toNat * 0x10000 + (b % 256).toNat * 0x100 + ch)) =
        .ok (.loadkey a b)) ∧
    (Int.gcd a 26 = 1 →
      ∃ t, exec (.loadkey a b) s = .next t ∧
        t.a.toInt = a ∧ t.b.toInt = b ∧ t.keyValid = true ∧
        t.invA.toNat < 26 ∧ (a * t.invA.toNat) % 26 = 1 ∧
        t.response = some (BitVec.ofNat 16 (0x100 * t.invA.toNat)) ∧
        t.host = s.host ∧ t.observed = s.observed ∧ t.freeCount = s.freeCount) ∧
    (Int.gcd a 26 ≠ 1 → exec (.loadkey a b) s = .next { s with response := some 0x4000#16 })

/-- R63, R64: LOADKEY answers OK for every `a` whose residue is in VALID_A and INVALID_KEY for every other, whatever `b`
and whatever the state. -/
def Obligations.ConstructionSucceedsExactlyForValidResidues : Prop :=
  ∀ (a b : Int) (s : State), -128 ≤ a → a ≤ 127 →
    (answerOf (exec (.loadkey a b) s)).map (fun r => r.toNat / 0x4000) =
      some (if a % 26 ∈ [1, 3, 5, 7, 9, 11, 15, 17, 19, 21, 23, 25] then 0 else 1)

/-- R59: a failing LOADKEY answers 0x4000 and changes nothing; a key held before is still held and still works. -/
def Obligations.FailingLoadkeyChangesNothing : Prop :=
  ∀ (a b : Int) (s : State), -128 ≤ a → a ≤ 127 → Int.gcd a 26 ≠ 1 →
    ∃ t, exec (.loadkey a b) s = .next t ∧ t.response = some 0x4000#16 ∧
      t.a = s.a ∧ t.b = s.b ∧ t.invA = s.invA ∧ t.keyValid = s.keyValid ∧
      ∀ ch : CharCode, answerOf (exec (.enc ch) t) = answerOf (exec (.enc ch) s) ∧
        answerOf (exec (.dec ch) t) = answerOf (exec (.dec ch) s)

/-- R52, R53: the gate is the gcd test, "odd and not a multiple of 13", and membership of the residue in VALID_A, whose
mask has a bit for each member and no other. -/
def Obligations.GateHasThreeEqualTests : Prop :=
  (∀ a : Int,
    (keychk a = true ↔ Int.gcd a 26 = 1) ∧
    (keychk a = true ↔ a % 2 = 1 ∧ a % 13 ≠ 0) ∧
    (keychk a = true ↔ (a % 26).toNat ∈ validA)) ∧
  ∀ r : Nat, (r ∈ validA ↔ r < 26 ∧ Nat.gcd r 26 = 1) ∧ (r ∈ validA ↔ validAMask.toNat.testBit r = true)

/-- R54: MODINV is the smallest index in 0..25 whose product with `a` has residue 1, and `none` when there is none. -/
def Obligations.ModinvIsTheSmallestInverse : Prop :=
  ∀ a : Int,
    (∀ i : Nat, modinv26 a = some i ↔ i < 26 ∧ (a * i) % 26 = 1 ∧ ∀ j : Nat, j < i → (a * j) % 26 ≠ 1) ∧
    (modinv26 a = none ↔ ∀ j : Nat, j < 26 → (a * j) % 26 ≠ 1)

/-- R56: the search succeeds exactly under the gate, with the unique inverse; the result depends on the residue of `a`
alone and is that of the table. -/
def Obligations.SearchSucceedsExactlyUnderTheGate : Prop :=
  ∀ a : Int,
    (keychk a = true →
      ∃ i : Nat, modinv26 a = some i ∧ (a * i) % 26 = 1 ∧ ∀ j : Nat, j < 26 → (a * j) % 26 = 1 → j = i) ∧
    (keychk a = false → modinv26 a = none) ∧
    modinv26 a = modinv26 (a % 26) ∧
    ∀ r i : Nat, (r, i) ∈ [(1, 1), (3, 9), (5, 21), (7, 15), (9, 3), (11, 19), (15, 7), (17, 23), (19, 11), (21, 5),
        (23, 17), (25, 25)] → a % 26 = r → modinv26 a = some i

/-- The count that R121 gives, informatively, for the reference iteration that stops at the first hit: INV_A + 1 for a
passing `a`, at most 26, none for a failing one. It is a count of `loadkeyTests`, a function of the model's own beside the
search: no step reads it, and that it counts what a LOADKEY does is the model's reading (DEDUCED, log 11). -/
def Obligations.SearchTestCount : Prop :=
  ∀ a : Int,
    (∀ i : Nat, keychk a = true → modinv26 a = some i → loadkeyTests a = i + 1) ∧
    (keychk a = false → loadkeyTests a = 0) ∧
    loadkeyTests a ≤ 26 ∧
    (a % 26 = 1 → loadkeyTests a = 2) ∧ (a % 26 = 5 → loadkeyTests a = 22) ∧ (a % 26 = 25 → loadkeyTests a = 26)

/-- R34, R60, R114: an ENC right after a passing LOADKEY uses that LOADKEY's key, whatever key was held before. -/
def Obligations.EncAfterLoadkeyUsesItsKey : Prop :=
  ∀ (a b : Int) (s : State) (p : Nat), -128 ≤ a → a ≤ 127 → -128 ≤ b → b ≤ 127 → Int.gcd a 26 = 1 → p < 26 →
    ∃ t, exec (.loadkey a b) s = .next t ∧
      ∃ u, exec (.enc (BitVec.ofNat 8 (0x41 + p))) t = .next u ∧
        u.response = some (BitVec.ofNat 16 (0x41 + ((a * p + b) % 26).toNat)) ∧
        u.a.toInt = a ∧ u.b.toInt = b

/-- What LOADKEY leaves unchanged (R58, R92): the host's actions, what it has seen, and the count of resets; and of the
four state elements all are written or none is. `a` and `b` range over all integers; that an operand outside -128..127 is
written as its 8-bit field is the model's choice and no rule of the spec (DESIGN CHOICE, log 7). -/
def Obligations.LoadkeyFrame : Prop :=
  ∀ (a b : Int) (s t : State), exec (.loadkey a b) s = .next t →
    t.host = s.host ∧ t.observed = s.observed ∧ t.freeCount = s.freeCount ∧
    ((t.a = s.a ∧ t.b = s.b ∧ t.invA = s.invA ∧ t.keyValid = s.keyValid) ∨
      (t.a = BitVec.ofInt 8 a ∧ t.b = BitVec.ofInt 8 b ∧ (t.a.toInt * t.invA.toNat) % 26 = 1 ∧ t.keyValid = true))

/-! ### ENC and DEC -/

/-- R69: the words of ENC with every A and B field, and its pseudocode on every character, in every state. -/
def Obligations.EncFollowsItsPseudocode : Prop :=
  ∀ (ch : CharCode) (s : State),
    (∀ x y : Nat, x < 0x100 → y < 0x100 →
      decode (BitVec.ofNat 32 (0x80000000 + x * 0x10000 + y * 0x100 + ch.toNat)) = .ok (.enc ch)) ∧
    (s.keyValid = false → exec (.enc ch) s = .next { s with response := some 0x8000#16 }) ∧
    (s.keyValid = true →
      (∀ p : Nat, p < 26 → ch.toNat = 0x41 + p → exec (.enc ch) s =
        .next { s with response := some (BitVec.ofNat 16 (0x41 + ((s.a.toInt * p + s.b.toInt) % 26).toNat)) }) ∧
      (∀ p : Nat, p < 26 → ch.toNat = 0x61 + p → exec (.enc ch) s =
        .next { s with response := some (BitVec.ofNat 16 (0x61 + ((s.a.toInt * p + s.b.toInt) % 26).toNat)) }) ∧
      (¬(0x41 ≤ ch.toNat ∧ ch.toNat ≤ 0x5A) → ¬(0x61 ≤ ch.toNat ∧ ch.toNat ≤ 0x7A) → exec (.enc ch) s =
        .next { s with response := some (BitVec.ofNat 16 ch.toNat) }))

/-- R70, R71: the words of DEC with every A and B field, and its pseudocode on every character, in every state. -/
def Obligations.DecFollowsItsPseudocode : Prop :=
  ∀ (ch : CharCode) (s : State),
    (∀ x y : Nat, x < 0x100 → y < 0x100 →
      decode (BitVec.ofNat 32 (0xC0000000 + x * 0x10000 + y * 0x100 + ch.toNat)) = .ok (.dec ch)) ∧
    (s.keyValid = false → exec (.dec ch) s = .next { s with response := some 0x8000#16 }) ∧
    (s.keyValid = true →
      (∀ c : Nat, c < 26 → ch.toNat = 0x41 + c → exec (.dec ch) s =
        .next { s with response := some (BitVec.ofNat 16 (0x41 + ((s.invA.toNat * (c - s.b.toInt)) % 26).toNat)) }) ∧
      (∀ c : Nat, c < 26 → ch.toNat = 0x61 + c → exec (.dec ch) s =
        .next { s with response := some (BitVec.ofNat 16 (0x61 + ((s.invA.toNat * (c - s.b.toInt)) % 26).toNat)) }) ∧
      (¬(0x41 ≤ ch.toNat ∧ ch.toNat ≤ 0x5A) → ¬(0x61 ≤ ch.toNat ∧ ch.toNat ≤ 0x7A) → exec (.dec ch) s =
        .next { s with response := some (BitVec.ofNat 16 ch.toNat) }))

/-- R75: ENC and DEC write no state, whether the answer is OK or NO_KEY; and the same command repeated gives the same
response. -/
def Obligations.MappersWriteNoState : Prop :=
  ∀ (ch : CharCode) (i : Instr) (s t : State), i = .enc ch ∨ i = .dec ch → exec i s = .next t →
    t.a = s.a ∧ t.b = s.b ∧ t.invA = s.invA ∧ t.keyValid = s.keyValid ∧
    t.host = s.host ∧ t.observed = s.observed ∧ t.freeCount = s.freeCount ∧
    exec i t = .next t

/-- R72: for a code that is no letter, ENC and DEC answer ST = OK with the code itself, for every held key; with no key
held even such a code is answered NO_KEY with CH = 0. -/
def Obligations.OtherCodesPassThrough : Prop :=
  ∀ (ch : CharCode) (s : State),
    (ch.toNat < 0x41 ∨ (0x5A < ch.toNat ∧ ch.toNat < 0x61) ∨ 0x7A < ch.toNat) →
      (s.keyValid = true →
        answerOf (exec (.enc ch) s) = some (0#8 ++ ch) ∧ answerOf (exec (.dec ch) s) = some (0#8 ++ ch)) ∧
      (s.keyValid = false →
        answerOf (exec (.enc ch) s) = some 0x8000#16 ∧ answerOf (exec (.dec ch) s) = some 0x8000#16)

/-- R73, R89: with a key held, ENC and DEC answer ST = OK, a letter stays a letter of its case, whatever the sign of the
intermediate value, and both cases use the same positions. -/
def Obligations.CaseAndRangeAreKept : Prop :=
  ∀ (s : State) (p : Nat), s.keyValid = true → p < 26 →
    (∃ c : Nat, c < 26 ∧
      answerOf (exec (.enc (BitVec.ofNat 8 (0x41 + p))) s) = some (BitVec.ofNat 16 (0x41 + c)) ∧
      answerOf (exec (.enc (BitVec.ofNat 8 (0x61 + p))) s) = some (BitVec.ofNat 16 (0x61 + c))) ∧
    (∃ c : Nat, c < 26 ∧
      answerOf (exec (.dec (BitVec.ofNat 8 (0x41 + p))) s) = some (BitVec.ofNat 16 (0x41 + c)) ∧
      answerOf (exec (.dec (BitVec.ofNat 8 (0x61 + p))) s) = some (BitVec.ofNat 16 (0x61 + c)))

/-- R65, R66: the modulus operation of the core is the floor-mod: in 0..25, congruent, and for a negative number that is
no multiple of 26 it is the truncating remainder plus 26. -/
def Obligations.FloorModIsTheResidue : Prop :=
  ∀ x : Int, 0 ≤ floorMod x ∧ floorMod x < 26 ∧ (∃ k : Int, x = 26 * k + floorMod x) ∧
    (0 ≤ x → floorMod x = Int.tmod x 26) ∧
    (x < 0 → Int.tmod x 26 ≠ 0 → floorMod x = Int.tmod x 26 + 26) ∧
    (Int.tmod x 26 = 0 → floorMod x = 0)

/-- R83: the round trip of one character, in both directions, for every held key that meets the key invariant. -/
def Obligations.RoundTripOfOneCharacter : Prop :=
  ∀ (s : State) (ch : CharCode), s.KeyInv → s.keyValid = true →
    (∃ (x : CharCode) (t : State), exec (.enc ch) s = .next t ∧ t.response = some (0#8 ++ x) ∧
      answerOf (exec (.dec x) t) = some (0#8 ++ ch)) ∧
    (∃ (y : CharCode) (t : State), exec (.dec ch) s = .next t ∧ t.response = some (0#8 ++ y) ∧
      answerOf (exec (.enc y) t) = some (0#8 ++ ch))

/-- R87: a held key permutes the letters of each case: every letter is the image of exactly one letter of its case, the
one DEC answers. -/
def Obligations.EachKeyPermutesEachCase : Prop :=
  ∀ (s : State) (base c : Nat), s.KeyInv → s.keyValid = true → base = 0x41 ∨ base = 0x61 → c < 26 →
    ∃ p : Nat, p < 26 ∧
      answerOf (exec (.enc (BitVec.ofNat 8 (base + p))) s) = some (BitVec.ofNat 16 (base + c)) ∧
      answerOf (exec (.dec (BitVec.ofNat 8 (base + c))) s) = some (BitVec.ofNat 16 (base + p)) ∧
      ∀ q : Nat, q < 26 →
        answerOf (exec (.enc (BitVec.ofNat 8 (base + q))) s) = some (BitVec.ofNat 16 (base + c)) → q = p

/-- R85: a key with residues 1 and 0 answers every code with itself, under ENC and DEC. -/
def Obligations.IdentityKeysPassEverything : Prop :=
  ∀ (s : State) (ch : CharCode), s.KeyInv → s.keyValid = true → s.a.toInt % 26 = 1 → s.b.toInt % 26 = 0 →
    answerOf (exec (.enc ch) s) = some (0#8 ++ ch) ∧ answerOf (exec (.dec ch) s) = some (0#8 ++ ch)

/-- R88, and the recovery of the residues from two letters that R103 notes: two held keys with the same residues answer
every ENC and DEC alike, and two held keys that answer ENC 'A' and ENC 'B' alike have the same residues; the gate and
the search see the residue only. -/
def Obligations.OnlyTheResiduesOfTheKeyMatter : Prop :=
  (∀ s s' : State, s.KeyInv → s'.KeyInv → s.keyValid = true → s'.keyValid = true →
    (s.a.toInt % 26 = s'.a.toInt % 26 ∧ s.b.toInt % 26 = s'.b.toInt % 26 →
      ∀ ch : CharCode, answerOf (exec (.enc ch) s) = answerOf (exec (.enc ch) s') ∧
        answerOf (exec (.dec ch) s) = answerOf (exec (.dec ch) s')) ∧
    (answerOf (exec (.enc 0x41#8) s) = answerOf (exec (.enc 0x41#8) s') ∧
        answerOf (exec (.enc 0x42#8) s) = answerOf (exec (.enc 0x42#8) s') →
      s.a.toInt % 26 = s'.a.toInt % 26 ∧ s.b.toInt % 26 = s'.b.toInt % 26)) ∧
  ∀ a a' : Int, a % 26 = a' % 26 → keychk a = keychk a' ∧ modinv26 a = modinv26 a'

/-! ### What reads and writes the key -/

/-- R19: LOADKEY's answer depends on its operands alone and what it writes too; ENC reads KEY_VALID, A and B, and not
INV_A; DEC reads KEY_VALID, INV_A and B, and not A; an illegal word reads nothing. -/
def Obligations.EachCommandReadsOnlyWhatTheTableSays : Prop :=
  ∀ s s' : State,
    (∀ a b : Int, answerOf (exec (.loadkey a b) s) = answerOf (exec (.loadkey a b) s') ∧
      ∀ t t' : State, exec (.loadkey a b) s = .next t → exec (.loadkey a b) s' = .next t' →
        (t.a = t'.a ∧ t.b = t'.b ∧ t.invA = t'.invA ∧ t.keyValid = t'.keyValid) ∨
        ((t.a = s.a ∧ t.b = s.b ∧ t.invA = s.invA ∧ t.keyValid = s.keyValid) ∧
          t'.a = s'.a ∧ t'.b = s'.b ∧ t'.invA = s'.invA ∧ t'.keyValid = s'.keyValid)) ∧
    (∀ ch : CharCode, s.keyValid = s'.keyValid → (s.keyValid = true → s.a = s'.a ∧ s.b = s'.b) →
      answerOf (exec (.enc ch) s) = answerOf (exec (.enc ch) s')) ∧
    (∀ ch : CharCode, s.keyValid = s'.keyValid → (s.keyValid = true → s.invA = s'.invA ∧ s.b = s'.b) →
      answerOf (exec (.dec ch) s) = answerOf (exec (.dec ch) s')) ∧
    (∀ w : CommandWord, opField w = 0b00#2 ∨ rsvField w ≠ 0#6 →
      answerOf (runWord w s) = answerOf (runWord w s'))

/-- R25: while KEY_VALID = 0, whatever A, B and INV_A hold never shows: two states that differ only there run alike for
any number of steps, and become equal as soon as a key is loaded. So no claim rests on the values the model names at
reset (log 5). -/
def Obligations.UnspecifiedRegistersNeverShow : Prop :=
  ∀ (n : Nat) (s : State) (x y : KeyByte) (z : InvWord), s.keyValid = false →
    ∃ t t', runSteps n s = .next t ∧ runSteps n { s with a := x, b := y, invA := z } = .next t' ∧
      t.response = t'.response ∧ t.observed = t'.observed ∧ t.host = t'.host ∧ t.keyValid = t'.keyValid ∧
      (t.keyValid = true → t = t')

/-- R17: a step sets KEY_VALID only by a LOADKEY that passes the gate, and clears it only by reset. -/
def Obligations.KeyValidChangesOnlyByLoadkeyAndReset : Prop :=
  ∀ s t : State, step s = .next t →
    (s.keyValid = false → t.keyValid = true →
      ∃ w a b, s.nextAction = some (.command w) ∧ decode w = .ok (.loadkey a b) ∧ Int.gcd a 26 = 1) ∧
    (s.keyValid = true → t.keyValid = false → s.nextAction = some .reset) ∧
    (∀ w a b, s.nextAction = some (.command w) → s.response = none → decode w = .ok (.loadkey a b) →
      Int.gcd a 26 = 1 → t.keyValid = true) ∧
    (s.nextAction = some .reset → t.keyValid = false)

/-- R14, R15, R16: a step changes A, B or INV_A only by a reset, or by a LOADKEY that passes the gate, which leaves its
operands, unreduced, and the inverse. -/
def Obligations.KeyRegistersChangeOnlyByLoadkeyOrReset : Prop :=
  ∀ s t : State, step s = .next t → s.nextAction ≠ some .reset →
    (t.a = s.a ∧ t.b = s.b ∧ t.invA = s.invA) ∨
    ∃ w a b, s.nextAction = some (.command w) ∧ decode w = .ok (.loadkey a b) ∧ Int.gcd a 26 = 1 ∧
      t.a.toInt = a ∧ t.b.toInt = b ∧ (a * t.invA.toNat) % 26 = 1 ∧ t.invA.toNat < 26

/-- R31, R82: executing a command a second time leaves the same state and the same response. -/
def Obligations.RepeatedCommandIsIdempotent : Prop :=
  ∀ (i : Instr) (s t : State), exec i s = .next t → exec i t = .next t

/-! ### The invariant -/

/-- R18, R24: the state after reset holds no key and no response, and meets the invariant. -/
def Obligations.ResetStateMeetsTheInvariant : Prop :=
  State.reset.keyValid = false ∧ State.reset.response = none ∧ State.reset.Inv

/-- R18, R43: from every state that meets the invariant, every step leads to one that meets it. -/
def Obligations.EveryStepKeepsTheInvariant : Prop :=
  ∀ s t : State, s.Inv → step s = .next t → t.Inv

/-! ### Texts, streams and several cores -/

/-- R78, R79, R80, R81: ENCRYPT and DECRYPT of a text under a held key take two steps a character, answer one character
for one, each depending on its own input character alone, and leave the key as it was. -/
def Obligations.TextOperationMapsEachCharacter : Prop :=
  ∀ (s : State) (text : List CharCode) (rest : List HostAction), s.keyValid = true → s.response = none →
    (∃ u : List CharCode, u.length = text.length ∧
      (∀ (k : Nat) (ch : CharCode), text[k]? = some ch → ∃ x, u[k]? = some x ∧ answerOf (exec (.enc ch) s) = some (okCharWord x)) ∧
      runSteps (2 * text.length) { s with host := encryptActions text ++ rest } =
        .next { s with host := rest, observed := s.observed ++ u.map okCharWord }) ∧
    (∃ u : List CharCode, u.length = text.length ∧
      (∀ (k : Nat) (ch : CharCode), text[k]? = some ch → ∃ x, u[k]? = some x ∧ answerOf (exec (.dec ch) s) = some (okCharWord x)) ∧
      runSteps (2 * text.length) { s with host := decryptActions text ++ rest } =
        .next { s with host := rest, observed := s.observed ++ u.map okCharWord })

/-- R79: with no key held a text operation fails as a whole: every response is NO_KEY. -/
def Obligations.TextWithoutKeyFailsAsAWhole : Prop :=
  ∀ (s : State) (text : List CharCode) (rest : List HostAction), s.keyValid = false → s.response = none →
    runSteps (2 * text.length) { s with host := encryptActions text ++ rest } =
      .next { s with host := rest, observed := s.observed ++ List.replicate text.length 0x8000#16 } ∧
    runSteps (2 * text.length) { s with host := decryptActions text ++ rest } =
      .next { s with host := rest, observed := s.observed ++ List.replicate text.length 0x8000#16 }

/-- R84: `DECRYPT(ENCRYPT(t)) = t` and `ENCRYPT(DECRYPT(t)) = t` for every text, run on the core under one held key, and
in both operations a character that is no letter is a fixed point, at its position. -/
def Obligations.DecryptOfEncryptIsTheText : Prop :=
  ∀ (s : State) (text : List CharCode), s.KeyInv → s.keyValid = true → s.response = none →
    (∃ u : List CharCode, u.length = text.length ∧
      (∀ (k : Nat) (ch : CharCode), text[k]? = some ch →
        ch.toNat < 0x41 ∨ (0x5A < ch.toNat ∧ ch.toNat < 0x61) ∨ 0x7A < ch.toNat → u[k]? = some ch) ∧
      runSteps (4 * text.length) { s with host := encryptActions text ++ decryptActions u } =
        .next { s with host := [], observed := s.observed ++ u.map okCharWord ++ text.map okCharWord }) ∧
    (∃ u : List CharCode, u.length = text.length ∧
      (∀ (k : Nat) (ch : CharCode), text[k]? = some ch →
        ch.toNat < 0x41 ∨ (0x5A < ch.toNat ∧ ch.toNat < 0x61) ∨ 0x7A < ch.toNat → u[k]? = some ch) ∧
      runSteps (4 * text.length) { s with host := decryptActions text ++ encryptActions u } =
        .next { s with host := [], observed := s.observed ++ u.map okCharWord ++ text.map okCharWord })

/-- R8, R13, R62: each command transfer on the register machine is one step of the command-level machine over an optional
key of integers, which tests the gate and finds the inverse in other ways. -/
def Obligations.PortsRefineTheCommandLevelMachine : Prop :=
  ∀ (s : State) (w : CommandWord) (rest : List HostAction), s.host = .command w :: rest → s.response = none →
    ∃ t, step s = .next t ∧ t.view = (commandStep s.view w).1 ∧ t.response = some (commandStep s.view w).2 ∧
      t.host = rest ∧ t.observed = s.observed

/-- R28, R34: a stream of command words, each answered before the next, is answered in order, one response a word, as the
command-level machine answers it. -/
def Obligations.StreamOfCommandsIsAnsweredInOrder : Prop :=
  ∀ (ws : List CommandWord) (s : State) (rest : List HostAction), s.response = none →
    s.host = (ws.flatMap fun w => [.command w, .take]) ++ rest →
    ∃ t, runSteps (2 * ws.length) s = .next t ∧ t.observed = s.observed ++ (commandRun s.view ws).2 ∧
      t.view = (commandRun s.view ws).1 ∧ t.response = none ∧ t.host = rest

/-- R37, R106: several cores share nothing: steps of two of them commute, and a step of one leaves the others as they
were. The list of cores is the model's form (log 10). -/
def Obligations.SeveralCoresDoNotInterfere : Prop :=
  ∀ (cores : List State) (j k : Nat), j ≠ k →
    ∃ x y z, stepAt j cores = .next x ∧ stepAt k x = .next z ∧ stepAt k cores = .next y ∧ stepAt j y = .next z ∧
      x[k]? = cores[k]? ∧ z[k]? = y[k]?
end

