-- ==== Sys2Proof/Laws/Decode.lean ====
section
/-! SUPPORT. The fields of a command word as numbers, the 8-bit field of a key operand, and everything the decoder can
answer. -/

namespace Sys2Proof

theorem fitsKeyField_iff (x : Int) : fitsKeyField x = true ↔ -128 ≤ x ∧ x ≤ 127 := by
  simp [fitsKeyField]

/-- An operand that fits its field is read back from it unchanged (R40, R48). -/
theorem toInt_keyField (x : Int) (h : fitsKeyField x = true) : (keyField x).toInt = x := by
  have hx := (fitsKeyField_iff x).1 h
  rw [keyField, BitVec.toInt_ofInt, Int.bmod_def]
  omega

theorem fitsKeyField_toInt (v : KeyByte) : fitsKeyField v.toInt = true := by
  have h := v.isLt
  rw [fitsKeyField_iff, BitVec.toInt_eq_toNat_cond]
  split <;> omega

theorem keyField_toInt (v : KeyByte) : keyField v.toInt = v := by simp [keyField]

/-- Everything `decode` can answer with a command (R47). -/
theorem decode_cases {w : CommandWord} {i : Instr} (h : decode w = .ok i) :
    rsvField w = 0#6 ∧
      ((opField w = 0b01#2 ∧ i = .loadkey (aField w).toInt (bField w).toInt) ∨
        (opField w = 0b10#2 ∧ i = .enc (chField w)) ∨
        (opField w = 0b11#2 ∧ i = .dec (chField w))) := by
  have h3 : ∀ v : BitVec 2, v ≠ 0#2 → v ≠ 1#2 → v ≠ 2#2 → v = 3#2 := by decide
  unfold decode at h
  split at h
  · cases h
  · split at h
    · cases h
    · rename_i h0 hr
      refine ⟨not_not.1 hr, ?_⟩
      split at h
      · exact .inl ⟨‹_›, by simpa using h.symm⟩
      · split at h
        · exact .inr (.inl ⟨‹_›, by simpa using h.symm⟩)
        · exact .inr (.inr ⟨h3 _ h0 ‹_› ‹_›, by simpa using h.symm⟩)

/-- A word is refused exactly when OP is reserved or RSV is not zero (R44). -/
theorem decode_error_iff (w : CommandWord) :
    (∃ e, decode w = .error e) ↔ opField w = 0b00#2 ∨ rsvField w ≠ 0#6 := by
  unfold decode
  split
  · simp [*]
  · split
    · simp [*]
    · split
      · simp_all
      · split <;> simp_all

/-- The decoder yields well-formed commands only. -/
theorem decode_wellFormed {w : CommandWord} {i : Instr} (h : decode w = .ok i) : i.WellFormed := by
  obtain ⟨-, ⟨-, rfl⟩ | ⟨-, rfl⟩ | ⟨-, rfl⟩⟩ := decode_cases h
  · show (fitsKeyField _ && fitsKeyField _) = true
    simp [fitsKeyField_toInt]
  · rfl
  · rfl

/-! ### Fields as numbers -/

theorem opField_toNat (w : CommandWord) : (opField w).toNat = w.toNat / 0x40000000 := by
  have h := w.isLt
  simp [opField, BitVec.extractLsb'_toNat, Nat.shiftRight_eq_div_pow]
  omega

theorem rsvField_toNat (w : CommandWord) : (rsvField w).toNat = w.toNat / 0x1000000 % 0x40 := by
  simp [rsvField, BitVec.extractLsb'_toNat, Nat.shiftRight_eq_div_pow]

theorem aField_toNat (w : CommandWord) : (aField w).toNat = w.toNat / 0x10000 % 0x100 := by
  simp [aField, BitVec.extractLsb'_toNat, Nat.shiftRight_eq_div_pow]

theorem bField_toNat (w : CommandWord) : (bField w).toNat = w.toNat / 0x100 % 0x100 := by
  simp [bField, BitVec.extractLsb'_toNat, Nat.shiftRight_eq_div_pow]

theorem chField_toNat (w : CommandWord) : (chField w).toNat = w.toNat % 0x100 := by
  simp [chField, BitVec.extractLsb'_toNat]

theorem append_toNat {n m : Nat} (x : BitVec n) (y : BitVec m) : (x ++ y).toNat = x.toNat * 2 ^ m + y.toNat := by
  rw [BitVec.toNat_append, ← Nat.shiftLeft_add_eq_or_of_lt y.isLt, Nat.shiftLeft_eq]

theorem formatK_toNat (op : BitVec 2) (a b : KeyByte) (ch : CharCode) :
    (formatK op a b ch).toNat = op.toNat * 0x40000000 + a.toNat * 0x10000 + b.toNat * 0x100 + ch.toNat := by
  simp only [formatK, append_toNat, BitVec.toNat_ofNat]
  omega

/-- The fields of a word put together are the fields it was put together from (R39). -/
theorem fields_formatK (op : BitVec 2) (a b : KeyByte) (ch : CharCode) :
    opField (formatK op a b ch) = op ∧ rsvField (formatK op a b ch) = 0#6 ∧ aField (formatK op a b ch) = a ∧
      bField (formatK op a b ch) = b ∧ chField (formatK op a b ch) = ch := by
  have h1 := op.isLt
  have h2 := a.isLt
  have h3 := b.isLt
  have h4 := ch.isLt
  refine ⟨?_, ?_, ?_, ?_, ?_⟩ <;> apply BitVec.eq_of_toNat_eq <;>
    simp only [opField_toNat, rsvField_toNat, aField_toNat, bField_toNat, chField_toNat, formatK_toNat,
      BitVec.toNat_ofNat] <;> omega

/-- A word with zero RSV is put together from its fields (R39). -/
theorem formatK_fields {w : CommandWord} (h : rsvField w = 0#6) :
    formatK (opField w) (aField w) (bField w) (chField w) = w := by
  have hr := congrArg BitVec.toNat h
  have hw := w.isLt
  apply BitVec.eq_of_toNat_eq
  rw [formatK_toNat, opField_toNat, aField_toNat, bField_toNat, chField_toNat]
  rw [rsvField_toNat, BitVec.toNat_ofNat] at hr
  omega

end Sys2Proof
end

