-- ==== Sys2Proof/Laws/State.lean ====
section
/-! SUPPORT. One lemma per field per update of the state, so that no later proof unfolds a record update. -/

namespace Sys2Proof.Machine

/-! ### `setKeyValid` -/

@[simp] theorem State.setKeyValid_a (s : State) : s.setKeyValid.a = s.a := rfl
@[simp] theorem State.setKeyValid_b (s : State) : s.setKeyValid.b = s.b := rfl
@[simp] theorem State.setKeyValid_invA (s : State) : s.setKeyValid.invA = s.invA := rfl
@[simp] theorem State.setKeyValid_keyValid (s : State) : s.setKeyValid.keyValid = true := rfl
@[simp] theorem State.setKeyValid_response (s : State) : s.setKeyValid.response = s.response := rfl
@[simp] theorem State.setKeyValid_host (s : State) : s.setKeyValid.host = s.host := rfl
@[simp] theorem State.setKeyValid_observed (s : State) : s.setKeyValid.observed = s.observed := rfl
@[simp] theorem State.setKeyValid_freeCount (s : State) : s.setKeyValid.freeCount = s.freeCount := rfl

/-! ### `clearKeyValid` -/

@[simp] theorem State.clearKeyValid_a (s : State) : s.clearKeyValid.a = s.a := rfl
@[simp] theorem State.clearKeyValid_b (s : State) : s.clearKeyValid.b = s.b := rfl
@[simp] theorem State.clearKeyValid_invA (s : State) : s.clearKeyValid.invA = s.invA := rfl
@[simp] theorem State.clearKeyValid_keyValid (s : State) : s.clearKeyValid.keyValid = false := rfl
@[simp] theorem State.clearKeyValid_response (s : State) : s.clearKeyValid.response = s.response := rfl
@[simp] theorem State.clearKeyValid_host (s : State) : s.clearKeyValid.host = s.host := rfl
@[simp] theorem State.clearKeyValid_observed (s : State) : s.clearKeyValid.observed = s.observed := rfl
@[simp] theorem State.clearKeyValid_freeCount (s : State) : s.clearKeyValid.freeCount = s.freeCount := rfl

/-! ### `respond` -/

@[simp] theorem State.respond_a (s : State) (r : ResponseWord) : (s.respond r).a = s.a := rfl
@[simp] theorem State.respond_b (s : State) (r : ResponseWord) : (s.respond r).b = s.b := rfl
@[simp] theorem State.respond_invA (s : State) (r : ResponseWord) : (s.respond r).invA = s.invA := rfl
@[simp] theorem State.respond_keyValid (s : State) (r : ResponseWord) : (s.respond r).keyValid = s.keyValid := rfl
@[simp] theorem State.respond_response (s : State) (r : ResponseWord) : (s.respond r).response = some r := rfl
@[simp] theorem State.respond_host (s : State) (r : ResponseWord) : (s.respond r).host = s.host := rfl
@[simp] theorem State.respond_observed (s : State) (r : ResponseWord) : (s.respond r).observed = s.observed := rfl
@[simp] theorem State.respond_freeCount (s : State) (r : ResponseWord) : (s.respond r).freeCount = s.freeCount := rfl

/-! ### `writeKey` -/

@[simp] theorem State.writeKey_a (s : State) (x y : KeyByte) (i : InvWord) : (s.writeKey x y i).a = x := rfl
@[simp] theorem State.writeKey_b (s : State) (x y : KeyByte) (i : InvWord) : (s.writeKey x y i).b = y := rfl
@[simp] theorem State.writeKey_invA (s : State) (x y : KeyByte) (i : InvWord) : (s.writeKey x y i).invA = i := rfl
@[simp] theorem State.writeKey_keyValid (s : State) (x y : KeyByte) (i : InvWord) : (s.writeKey x y i).keyValid = true := rfl
@[simp] theorem State.writeKey_response (s : State) (x y : KeyByte) (i : InvWord) : (s.writeKey x y i).response = s.response := rfl
@[simp] theorem State.writeKey_host (s : State) (x y : KeyByte) (i : InvWord) : (s.writeKey x y i).host = s.host := rfl
@[simp] theorem State.writeKey_observed (s : State) (x y : KeyByte) (i : InvWord) : (s.writeKey x y i).observed = s.observed := rfl
@[simp] theorem State.writeKey_freeCount (s : State) (x y : KeyByte) (i : InvWord) : (s.writeKey x y i).freeCount = s.freeCount := rfl

/-! ### `forgetKey` -/

@[simp] theorem State.forgetKey_a (s : State) : s.forgetKey.a = Config.unspecifiedA s.freeCount := rfl
@[simp] theorem State.forgetKey_b (s : State) : s.forgetKey.b = Config.unspecifiedB s.freeCount := rfl
@[simp] theorem State.forgetKey_invA (s : State) : s.forgetKey.invA = Config.unspecifiedInvA s.freeCount := rfl
@[simp] theorem State.forgetKey_keyValid (s : State) : s.forgetKey.keyValid = s.keyValid := rfl
@[simp] theorem State.forgetKey_response (s : State) : s.forgetKey.response = s.response := rfl
@[simp] theorem State.forgetKey_host (s : State) : s.forgetKey.host = s.host := rfl
@[simp] theorem State.forgetKey_observed (s : State) : s.forgetKey.observed = s.observed := rfl
@[simp] theorem State.forgetKey_freeCount (s : State) : s.forgetKey.freeCount = s.freeCount + 1 := rfl

/-! ### `dropResponse` -/

@[simp] theorem State.dropResponse_a (s : State) : s.dropResponse.a = s.a := rfl
@[simp] theorem State.dropResponse_b (s : State) : s.dropResponse.b = s.b := rfl
@[simp] theorem State.dropResponse_invA (s : State) : s.dropResponse.invA = s.invA := rfl
@[simp] theorem State.dropResponse_keyValid (s : State) : s.dropResponse.keyValid = s.keyValid := rfl
@[simp] theorem State.dropResponse_response (s : State) : s.dropResponse.response = none := rfl
@[simp] theorem State.dropResponse_host (s : State) : s.dropResponse.host = s.host := rfl
@[simp] theorem State.dropResponse_observed (s : State) : s.dropResponse.observed = s.observed := rfl
@[simp] theorem State.dropResponse_freeCount (s : State) : s.dropResponse.freeCount = s.freeCount := rfl

/-! ### `resetEvent` -/

@[simp] theorem State.resetEvent_a (s : State) : s.resetEvent.a = Config.unspecifiedA s.freeCount := rfl
@[simp] theorem State.resetEvent_b (s : State) : s.resetEvent.b = Config.unspecifiedB s.freeCount := rfl
@[simp] theorem State.resetEvent_invA (s : State) : s.resetEvent.invA = Config.unspecifiedInvA s.freeCount := rfl
@[simp] theorem State.resetEvent_keyValid (s : State) : s.resetEvent.keyValid = false := rfl
@[simp] theorem State.resetEvent_response (s : State) : s.resetEvent.response = none := rfl
@[simp] theorem State.resetEvent_host (s : State) : s.resetEvent.host = s.host := rfl
@[simp] theorem State.resetEvent_observed (s : State) : s.resetEvent.observed = s.observed := rfl
@[simp] theorem State.resetEvent_freeCount (s : State) : s.resetEvent.freeCount = s.freeCount + 1 := rfl

/-! ### `deliver` -/

@[simp] theorem State.deliver_a (s : State) (r : ResponseWord) : (s.deliver r).a = s.a := rfl
@[simp] theorem State.deliver_b (s : State) (r : ResponseWord) : (s.deliver r).b = s.b := rfl
@[simp] theorem State.deliver_invA (s : State) (r : ResponseWord) : (s.deliver r).invA = s.invA := rfl
@[simp] theorem State.deliver_keyValid (s : State) (r : ResponseWord) : (s.deliver r).keyValid = s.keyValid := rfl
@[simp] theorem State.deliver_response (s : State) (r : ResponseWord) : (s.deliver r).response = none := rfl
@[simp] theorem State.deliver_host (s : State) (r : ResponseWord) : (s.deliver r).host = s.host := rfl
@[simp] theorem State.deliver_observed (s : State) (r : ResponseWord) : (s.deliver r).observed = s.observed ++ [r] := rfl
@[simp] theorem State.deliver_freeCount (s : State) (r : ResponseWord) : (s.deliver r).freeCount = s.freeCount := rfl

/-! ### `presentNext` -/

@[simp] theorem State.presentNext_a (s : State) (w : CommandWord) : (s.presentNext w).a = s.a := rfl
@[simp] theorem State.presentNext_b (s : State) (w : CommandWord) : (s.presentNext w).b = s.b := rfl
@[simp] theorem State.presentNext_invA (s : State) (w : CommandWord) : (s.presentNext w).invA = s.invA := rfl
@[simp] theorem State.presentNext_keyValid (s : State) (w : CommandWord) : (s.presentNext w).keyValid = s.keyValid := rfl
@[simp] theorem State.presentNext_response (s : State) (w : CommandWord) : (s.presentNext w).response = none := rfl
@[simp] theorem State.presentNext_host (s : State) (w : CommandWord) : (s.presentNext w).host = .command w :: s.host := rfl
@[simp] theorem State.presentNext_observed (s : State) (w : CommandWord) : (s.presentNext w).observed = s.observed := rfl
@[simp] theorem State.presentNext_freeCount (s : State) (w : CommandWord) : (s.presentNext w).freeCount = s.freeCount := rfl

end Sys2Proof.Machine
end

