-- ==== Sys2Proof/Laws/Ops.lean ====
section
/-! SUPPORT. What the shared operations do, said once: the floor-mod, raising, answering, and the response word as a
number. -/

namespace Sys2Proof.Machine

/-- The floor-mod is `%` on the integers (K5). -/
theorem floorMod_eq_emod (x : Int) : floorMod x = x % 26 := by
  have h1 := Int.mul_fdiv_add_fmod x 26
  have h2 := Int.fmod_eq_emod_of_nonneg x (b := 26) (by decide)
  simp only [floorMod, Config.modulus]
  omega

/-- The response word as a number (R42). -/
theorem responseWord_toNat (st : Status) (inv : InvWord) (ch : CharCode) :
    (responseWord st inv ch).toNat = st.code.toNat * 0x4000 + inv.toNat * 0x100 + ch.toNat := by
  simp only [responseWord, append_toNat, BitVec.toNat_ofNat]
  omega

/-- An error is an answer with that status and nothing else (R92). -/
theorem raise_next {e : Status} {s t : State} (h : raise e s = .next t) : t = s.respond (responseWord e 0#5 0#8) := by
  cases h
  rfl

theorem answerOk_next {inv : InvWord} {ch : CharCode} {s t : State} (h : answerOk inv ch s = .next t) :
    t = s.respond (responseWord .ok inv ch) := by
  cases h
  rfl

/-- A key operand that fits its field is read as itself (R40). -/
theorem sext8_keyOperand {x : Int} (h : fitsKeyField x = true) : sext8 (keyOperand x) = x := toInt_keyField x h

/-! ### Letters -/

theorem classify_upper {ch : CharCode} (h : 0x41 ≤ ch.toNat ∧ ch.toNat ≤ 0x5A) : classify ch = .upper := if_pos h

theorem classify_lower {ch : CharCode} (h : 0x61 ≤ ch.toNat ∧ ch.toNat ≤ 0x7A) : classify ch = .lower := by
  unfold classify
  rw [if_neg (by omega), if_pos h]

theorem classify_other {ch : CharCode} (h : ¬(0x41 ≤ ch.toNat ∧ ch.toNat ≤ 0x5A))
    (h' : ¬(0x61 ≤ ch.toNat ∧ ch.toNat ≤ 0x7A)) : classify ch = .other := by
  unfold classify
  rw [if_neg h, if_neg h']

/-- Every character is a letter of one case at a position in 0..25, or no letter (R67, R68). -/
theorem char_cases (ch : CharCode) :
    (∃ p : Nat, p < 26 ∧ ch.toNat = 0x41 + p ∧ classify ch = .upper) ∨
    (∃ p : Nat, p < 26 ∧ ch.toNat = 0x61 + p ∧ classify ch = .lower) ∨
    (¬(0x41 ≤ ch.toNat ∧ ch.toNat ≤ 0x5A) ∧ ¬(0x61 ≤ ch.toNat ∧ ch.toNat ≤ 0x7A) ∧ classify ch = .other) := by
  by_cases hu : 0x41 ≤ ch.toNat ∧ ch.toNat ≤ 0x5A
  · exact .inl ⟨ch.toNat - 0x41, by omega, by omega, classify_upper hu⟩
  · by_cases hl : 0x61 ≤ ch.toNat ∧ ch.toNat ≤ 0x7A
    · exact .inr (.inl ⟨ch.toNat - 0x61, by omega, by omega, classify_lower hl⟩)
    · exact .inr (.inr ⟨hu, hl, classify_other hu hl⟩)

end Sys2Proof.Machine
end

