-- ==== Sys2Proof/Laws/CharMap.lean ====
section
/-! SUPPORT. What a map of positions does to each kind of character, and everything a character mapper can do. -/

namespace Sys2Proof.Machine

theorem mapLetter_upper {f : Int → Int} {ch : CharCode} {p : Nat} (hp : p < 26) (h : ch.toNat = 0x41 + p) :
    mapLetter f ch = BitVec.ofNat 8 (0x41 + (f p).toNat) := by
  have hpos : position Config.baseUpper ch = (p : Int) := by
    simp only [position, Config.baseUpper]
    omega
  rw [mapLetter, classify_upper (ch := ch) (by omega)]
  show letterAt _ (f (position _ ch)) = _
  rw [hpos]
  rfl

theorem mapLetter_lower {f : Int → Int} {ch : CharCode} {p : Nat} (hp : p < 26) (h : ch.toNat = 0x61 + p) :
    mapLetter f ch = BitVec.ofNat 8 (0x61 + (f p).toNat) := by
  have hpos : position Config.baseLower ch = (p : Int) := by
    simp only [position, Config.baseLower]
    omega
  rw [mapLetter, classify_lower (ch := ch) (by omega)]
  show letterAt _ (f (position _ ch)) = _
  rw [hpos]
  rfl

theorem mapLetter_other {f : Int → Int} {ch : CharCode} (h : classify ch = .other) : mapLetter f ch = ch := by
  simp only [mapLetter, h]

/-- A character mapper answers a character or NO_KEY, and changes nothing but the response (R69, R71, R75). -/
theorem mapChar_eq (f : Int → Int) (ch : CharCode) (s : State) :
    mapChar f ch s = .next (s.respond
      (if s.keyValid then responseWord .ok 0#5 (mapLetter f ch) else responseWord .noKey 0#5 0#8)) := by
  unfold mapChar State.keyHeld
  split <;> rfl

end Sys2Proof.Machine
end

