-- ==== Sys2Proof/Laws/KeyLoad.lean ====
section
/-! SUPPORT. What the loop of MODINV finds, and everything LOADKEY can do. -/

namespace Sys2Proof.Machine

/-- What the loop found is the first index from `i` on that passes its test (R55). -/
theorem modinvSearch_some {a : Int} {fuel i k : Nat} (h : modinvSearch a fuel i = some k) :
    i ≤ k ∧ k < i + fuel ∧ floorMod (a * k) = 1 ∧ ∀ j, i ≤ j → j < k → floorMod (a * j) ≠ 1 := by
  induction fuel generalizing i with
  | zero => cases h
  | succ n ih =>
    unfold modinvSearch at h
    split at h
    · cases h
      exact ⟨le_rfl, by omega, ‹_›, by omega⟩
    · obtain ⟨h1, h2, h3, h4⟩ := ih h
      refine ⟨by omega, by omega, h3, fun j hj hk => ?_⟩
      rcases Nat.eq_or_lt_of_le hj with rfl | hlt
      · assumption
      · exact h4 j hlt hk

/-- A loop that found nothing has tested every index (R55). -/
theorem modinvSearch_none {a : Int} {fuel i : Nat} (h : modinvSearch a fuel i = none) :
    ∀ j, i ≤ j → j < i + fuel → floorMod (a * j) ≠ 1 := by
  induction fuel generalizing i with
  | zero => omega
  | succ n ih =>
    unfold modinvSearch at h
    split at h
    · cases h
    · intro j hj hk
      rcases Nat.eq_or_lt_of_le hj with rfl | hlt
      · assumption
      · exact ih h j hlt (by omega)

/-- The gate passes exactly when the gcd is 1 (R52). -/
theorem keychk_eq_true {a : Int} : keychk a = true ↔ Int.gcd a 26 = 1 := by
  unfold keychk
  exact decide_eq_true_iff

/-- Everything LOADKEY can do: write a key with an inverse the search found under the gate, or answer INVALID_KEY and
write nothing (R58, R59, R61). -/
theorem loadKey_cases {a b : KeyByte} {s t : State} (h : loadKey a b s = .next t) :
    (∃ i : Nat, keychk (sext8 a) = true ∧ modinv26 (sext8 a) = some i ∧
      t = (s.writeKey a b (BitVec.ofNat 5 i)).respond (responseWord .ok (BitVec.ofNat 5 i) 0#8)) ∨
    t = s.respond (responseWord .invalidKey 0#5 0#8) := by
  unfold loadKey at h
  split at h
  · split at h
    · exact .inl ⟨_, ‹_›, ‹_›, answerOk_next h⟩
    · exact .inr (raise_next h)
  · exact .inr (raise_next h)

end Sys2Proof.Machine
end

