-- ==== Sys2Proof/Laws/PerInstr.lean ====
section
/-! SUPPORT. Per command, as syntax: its encoding is in its row of spec/opcode_table.json, and canonical. -/

namespace Sys2Proof.Laws.TableRow

/-- The top byte of the command's row, the `match` under the mask 0xFF000000 (R41). -/
def topByte : Instr → Nat
  | .loadkey _ _ => 0x40
  | .enc _ => 0x80
  | .dec _ => 0xC0

/-- What a word holds in the fields the command ignores (R45). -/
def ignored (w : Nat) : Instr → Nat
  | .loadkey _ _ => w % 0x100
  | .enc _ => w / 0x100 % 0x10000
  | .dec _ => w / 0x100 % 0x10000

/-- The command's word has its row's top byte, and zero in the fields the command ignores. -/
def Statement (i : Instr) : Prop :=
  (encode i).toNat / 0x1000000 = topByte i ∧ ignored (encode i).toNat i = 0

theorem loadkey (a b : Int) : Statement (.loadkey a b) := by
  have ha := (keyField a).isLt
  have hb := (keyField b).isLt
  simp only [Statement, encode, formatK_toNat, topByte, ignored, BitVec.toNat_ofNat]
  omega

theorem enc (ch : CharCode) : Statement (.enc ch) := by
  have h := ch.isLt
  simp only [Statement, encode, formatK_toNat, topByte, ignored, BitVec.toNat_ofNat]
  omega

theorem dec (ch : CharCode) : Statement (.dec ch) := by
  have h := ch.isLt
  simp only [Statement, encode, formatK_toNat, topByte, ignored, BitVec.toNat_ofNat]
  omega

end Sys2Proof.Laws.TableRow
end

