-- ==== Sys2Proof/Laws/Step.lean ====
section
/-! SUPPORT. Everything a command and a step can do, said once, and the step that `withFetchWord` prepares. -/

namespace Sys2Proof.Machine

/-- ENC in one equation (R69). -/
theorem exec_enc_eq (ch : CharCode) (s : State) :
    exec (.enc ch) s = .next (s.respond (if s.keyValid then
      responseWord .ok 0#5 (mapLetter (forward s.aInt s.bInt) ch) else responseWord .noKey 0#5 0#8)) :=
  mapChar_eq _ _ _

/-- DEC in one equation (R71). -/
theorem exec_dec_eq (ch : CharCode) (s : State) :
    exec (.dec ch) s = .next (s.respond (if s.keyValid then
      responseWord .ok 0#5 (mapLetter (backward s.invAInt s.bInt) ch) else responseWord .noKey 0#5 0#8)) :=
  mapChar_eq _ _ _

/-- A command leaves the host's actions, what it has seen and the count of resets as they were, and a response pending
(R28, R92). -/
theorem exec_keeps_host {i : Instr} {s t : State} (h : exec i s = .next t) :
    t.host = s.host ∧ t.observed = s.observed ∧ t.freeCount = s.freeCount ∧ t.response.isSome = true := by
  cases i with
  | loadkey a b => obtain ⟨i, -, -, rfl⟩ | rfl := loadKey_cases h <;> simp
  | enc ch =>
    cases (exec_enc_eq ch s).symm.trans h
    simp
  | dec ch =>
    cases (exec_dec_eq ch s).symm.trans h
    simp

/-- Everything the core can meet at its ports (R28, R109). -/
theorem nextPortEvent_cases (s : State) :
    (∃ w rest, s.host = .command w :: rest ∧ s.response = none ∧
      nextPortEvent s = .command w { s with host := rest }) ∨
    (∃ w rest r, s.host = .command w :: rest ∧ s.response = some r ∧ nextPortEvent s = .quiet s) ∨
    (∃ rest r, s.host = .take :: rest ∧ s.response = some r ∧
      nextPortEvent s = .quiet (({ s with host := rest } : State).deliver r)) ∨
    (∃ rest, s.host = .take :: rest ∧ s.response = none ∧ nextPortEvent s = .quiet s) ∨
    (∃ rest, s.host = .reset :: rest ∧
      nextPortEvent s = .quiet (({ s with host := rest } : State).resetEvent)) ∨
    (s.host = [] ∧ nextPortEvent s = .quiet s) := by
  unfold nextPortEvent State.ready
  rcases hh : s.host with _ | ⟨w | _ | _, rest⟩ <;> rcases hr : s.response with _ | r <;> simp

/-- Everything a step can do (R7, R99, R109): run a word that is a command; answer one that is none; hold a command
back; deliver a response; wait for one; reset; idle. -/
theorem step_cases (s : State) :
    (∃ w rest i, s.host = .command w :: rest ∧ s.response = none ∧ decode w = .ok i ∧
      step s = exec i { s with host := rest }) ∨
    (∃ w rest e, s.host = .command w :: rest ∧ s.response = none ∧ decode w = .error e ∧
      step s = .next (({ s with host := rest } : State).respond (responseWord .illegalCmd 0#5 0#8))) ∨
    (∃ w rest r, s.host = .command w :: rest ∧ s.response = some r ∧ step s = .next s) ∨
    (∃ rest r, s.host = .take :: rest ∧ s.response = some r ∧
      step s = .next (({ s with host := rest } : State).deliver r)) ∨
    (∃ rest, s.host = .take :: rest ∧ s.response = none ∧ step s = .next s) ∨
    (∃ rest, s.host = .reset :: rest ∧ step s = .next (({ s with host := rest } : State).resetEvent)) ∨
    (s.host = [] ∧ step s = .next s) := by
  unfold step
  obtain ⟨w, rest, hh, hr, he⟩ | ⟨w, rest, r, hh, hr, he⟩ | ⟨rest, r, hh, hr, he⟩ | ⟨rest, hh, hr, he⟩ |
    ⟨rest, hh, he⟩ | ⟨hh, he⟩ := nextPortEvent_cases s <;> rw [he]
  · rcases hd : decode w with e | i
    · exact .inr (.inl ⟨w, rest, e, hh, hr, hd, by simp only [runWord, hd]; rfl⟩)
    · exact .inl ⟨w, rest, i, hh, hr, hd, by simp only [runWord, hd]⟩
  · exact .inr (.inr (.inl ⟨w, rest, r, hh, hr, rfl⟩))
  · exact .inr (.inr (.inr (.inl ⟨rest, r, hh, hr, rfl⟩)))
  · exact .inr (.inr (.inr (.inr (.inl ⟨rest, hh, hr, rfl⟩))))
  · exact .inr (.inr (.inr (.inr (.inr (.inl ⟨rest, hh, rfl⟩)))))
  · exact .inr (.inr (.inr (.inr (.inr (.inr ⟨hh, rfl⟩)))))

/-- A word presented to a core that holds no response is run in that step (R28). -/
theorem step_command {s : State} {w : CommandWord} {rest : List HostAction} (h : s.host = .command w :: rest)
    (hr : s.response = none) : step s = runWord w { s with host := rest } := by
  simp only [step, nextPortEvent, State.ready, h, hr, Option.isNone_none, if_true]

/-- The very next step after `withFetchWord` takes and runs that word. -/
theorem step_withFetchWord (s : State) (nbits w : Nat) :
    step (s.withFetchWord nbits w) = runWord (tableWord nbits w) { s with response := none } := rfl

end Sys2Proof.Machine
end

