-- ==== Sys2Proof/Tests/Slice0.lean ====
section
/-! SUPPORT. Tests with expected results from spec/30_encoding.md R50 and spec/95_test_vectors.md, and for each
obligation with hypotheses a witness that meets them, clause by clause at the ends of the ranges. -/

namespace Sys2Proof.Tests

open Sys2Proof.Machine

/-- A core that holds a key. -/
def keyed (a b : KeyByte) (inv : InvWord) : State := { State.reset with a := a, b := b, invA := inv, keyValid := true }

/-- A core to which the host presents a word. -/
def shown (s : State) (w : CommandWord) : State := { s with host := [.command w] }

/-! ### Well-formed commands (R9, R40) -/

theorem test_wellFormed_ends : Instr.WellFormed (.loadkey (-128) 127) ∧ Instr.WellFormed (.loadkey 127 (-128)) := by
  decide

theorem test_a_below_range_is_ill_formed : ¬Instr.WellFormed (.loadkey (-129) 0) := by decide
theorem test_a_above_range_is_ill_formed : ¬Instr.WellFormed (.loadkey 128 0) := by decide
theorem test_b_below_range_is_ill_formed : ¬Instr.WellFormed (.loadkey 0 (-129)) := by decide
theorem test_b_above_range_is_ill_formed : ¬Instr.WellFormed (.loadkey 0 128) := by decide

/-! ### Decoding, words written out field by field (R39: OP, RSV, A, B, CH) -/

theorem test_decode_loadkey :
    decode (0b01#2 ++ 0b000000#6 ++ 0b11111111#8 ++ 0b11111101#8 ++ 0b00000000#8) = .ok (.loadkey (-1) (-3)) := by decide

theorem test_decode_enc :
    decode (0b10#2 ++ 0b000000#6 ++ 0b00010010#8 ++ 0b00110100#8 ++ 0b01001000#8) = .ok (.enc 0x48#8) := by decide

theorem test_decode_dec :
    decode (0b11#2 ++ 0b000000#6 ++ 0b11111111#8 ++ 0b11111111#8 ++ 0b01111010#8) = .ok (.dec 0x7A#8) := by decide

/-- D-DECODE: `0x3FFFFFFF` and `0xBF000048`. -/
theorem test_decode_illegal :
    decode 0x3FFFFFFF#32 = .error .reservedOp ∧ decode 0xBF000048#32 = .error .reservedBits := by decide

/-- The word of the opcode table's row LOADKEY, fields zero. -/
theorem test_decodeTableWord : decodeTableWord 32 0x40000000 = some (.loadkey 0 0) := by decide

/-! ### One step each -/

/-- D-LOADKEY: `LOADKEY -127, 127`, word `0x40817F00`, answers `0x0900`. -/
theorem test_loadkey_passes :
    (nextOf (step (State.reset.withFetchWord 32 0x40817F00))).map (fun t => (t.response, t.a.toInt, t.b.toInt, t.invA.toNat)) =
      some (some 0x0900#16, -127, 127, 9) := by decide

/-- D-LOADKEY: `LOADKEY 4, 1` under key (5, 8) answers `0x4000` and keeps the key. -/
theorem test_loadkey_fails :
    (nextOf (step (shown (keyed 5#8 8#8 21#5) 0x40040100#32))).map (fun t => (t.response, t.a, t.b, t.invA, t.keyValid)) =
      some (some 0x4000#16, 5#8, 8#8, 21#5, true) := by decide

/-- D-ENC: key (-127, -128), `'Z'`: -3303 mod 26 = 25. -/
theorem test_enc_negative : answerOf (step (shown (keyed 0x81#8 0x80#8 9#5) 0x8000005A#32)) = some 0x005A#16 := by decide

/-- D-ENC: key (-1, -3), `'z'`: -28 mod 26 = 24, `'y'`. -/
theorem test_enc_lower : answerOf (step (shown (keyed 0xFF#8 0xFD#8 25#5) 0x8000007A#32)) = some 0x0079#16 := by decide

/-- D-DEC: key (5, 8, 21), `'C'`: -126 mod 26 = 4, `'E'`. -/
theorem test_dec_negative : answerOf (step (shown (keyed 5#8 8#8 21#5) 0xC0000043#32)) = some 0x0045#16 := by decide

/-- D-DEC: key INV_A = 17, B = -128, `'z'`: 2601 mod 26 = 1, `'b'`. -/
theorem test_dec_lower : answerOf (step (shown (keyed 0x7F#8 0x80#8 17#5) 0xC000007A#32)) = some 0x0062#16 := by decide

/-- D-ERR: `0x81000048` with no key: ILLEGAL_CMD wins over NO_KEY. -/
theorem test_illegal_before_noKey : answerOf (step (State.reset.withFetchWord 32 0x81000048)) = some 0xC000#16 := by decide

/-- R110: a reset drops the key and a response not yet taken. -/
theorem test_reset_event :
    (nextOf (step { keyed 5#8 8#8 21#5 with host := [.reset], response := some 0x0052#16 })).map
      (fun t => (t.keyValid, t.response)) = some (false, none) := by decide

/-! ### Witnesses for the hypotheses of the obligations -/

theorem witness_DecodeOfEncodeIsTheCommand :
    Instr.WellFormed (.loadkey (-128) 127) ∧ Instr.WellFormed (.enc 0xFF#8) ∧ Instr.WellFormed (.dec 0x00#8) := by decide

theorem witness_TopByteDecidesTheCommand :
    (0x40800000#32).toNat / 0x1000000 = 0x40 ∧ (0x80FFFFFF#32).toNat / 0x1000000 = 0x80 ∧
    (0xC0000000#32).toNat / 0x1000000 = 0xC0 ∧
    ((0xFFFFFFFF#32).toNat / 0x1000000 ≠ 0x40 ∧ (0xFFFFFFFF#32).toNat / 0x1000000 ≠ 0x80 ∧
      (0xFFFFFFFF#32).toNat / 0x1000000 ≠ 0xC0) := by decide

theorem witness_IgnoredFieldsChangeNothing :
    decode 0x400508FF#32 = .ok (.loadkey 5 8) ∧ decode 0x80123448#32 = .ok (.enc 0x48#8) ∧
    decode 0xC0FFFF7A#32 = .ok (.dec 0x7A#8) ∧ State.reset.response = none := by decide

theorem witness_StepRunsThePresentedCommand :
    (shown State.reset 0x40050800#32).host = .command 0x40050800#32 :: [] ∧
    (shown State.reset 0x40050800#32).response = none ∧ decode 0x40050800#32 = .ok (.loadkey 5 8) := by decide

theorem witness_IllegalWordAnswersIllegalCmd :
    (shown State.reset 0x3FFFFFFF#32).host = .command 0x3FFFFFFF#32 :: [] ∧
    (shown State.reset 0x3FFFFFFF#32).response = none ∧ (0x3FFFFFFF#32).toNat / 0x40000000 = 0 ∧
    (shown State.reset 0xFFFFFFFF#32).host = .command 0xFFFFFFFF#32 :: [] ∧
    (0xFFFFFFFF#32).toNat / 0x1000000 % 0x40 ≠ 0 := by decide

theorem witness_UntakenResponseHoldsBackTheNextCommand :
    ({ shown State.reset 0x80000048#32 with response := some 0x1500#16 } : State).host = .command 0x80000048#32 :: [] ∧
    ({ shown State.reset 0x80000048#32 with response := some 0x1500#16 } : State).response = some 0x1500#16 := by decide

theorem witness_TakingAResponseFreesTheCore :
    ({ State.reset with host := [.take], response := some 0x1500#16 } : State).host = .take :: [] ∧
    ({ State.reset with host := [.take], response := some 0x1500#16 } : State).response = some 0x1500#16 := by decide

theorem witness_IdleCoreHoldsItsState : State.reset.host = [] := by decide

theorem witness_ResetEventLeavesNoKeyAndNoResponse :
    ({ keyed 5#8 8#8 21#5 with host := [.reset, .take] } : State).host = .reset :: [.take] := by decide

theorem witness_OneResponsePerCommand :
    (∃ t, step (shown State.reset 0x40050800#32) = .next t) ∧
    (shown State.reset 0x40050800#32).nextAction ≠ some .reset := ⟨⟨_, rfl⟩, by decide⟩

/-- A word for each status, in order of the checks: `0x00000000`, ENC without a key, `LOADKEY 13, 0`, `LOADKEY 1, 0`. -/
theorem witness_StatusFollowsTheOrderOfChecks :
    (shown State.reset 0#32).host = .command 0#32 :: [] ∧ (shown State.reset 0#32).response = none ∧
    (0#32).toNat / 0x40000000 = 0 ∧
    (0x800000FF#32).toNat / 0x40000000 = 2 ∧ (0xC0000000#32).toNat / 0x40000000 = 3 ∧ State.reset.keyValid = false ∧
    (0x400D0000#32).toNat / 0x40000000 = 1 ∧ Int.gcd (signedByte ((0x400D0000#32).toNat / 0x10000 % 0x100)) 26 ≠ 1 ∧
    (0x40010000#32).toNat / 0x40000000 = 1 ∧ Int.gcd (signedByte ((0x40010000#32).toNat / 0x10000 % 0x100)) 26 = 1 := by
  decide

/-- The three causes, each at a state and word of D-ERR. -/
theorem witness_EachErrorHasExactlyItsCause :
    (shown State.reset 0x40040000#32).host = .command 0x40040000#32 :: [] ∧
    (shown State.reset 0x40040000#32).response = none ∧
    answerOf (step (shown State.reset 0x40040000#32)) = some 0x4000#16 ∧
    answerOf (step (shown State.reset 0xC0000052#32)) = some 0x8000#16 ∧
    answerOf (step (shown (keyed 5#8 8#8 21#5) 0x41040000#32)) = some 0xC000#16 := by decide

theorem witness_EveryResponseIsInTheCompleteSet :
    (shown State.reset 0x40190000#32).host = .command 0x40190000#32 :: [] ∧
    (shown State.reset 0x40190000#32).response = none := by decide

theorem witness_LoadkeyFollowsItsPseudocode :
    (-128 : Int) ≤ -127 ∧ (-127 : Int) ≤ 127 ∧ (-128 : Int) ≤ 127 ∧ (127 : Int) ≤ 127 ∧ Int.gcd (-127) 26 = 1 ∧
    Int.gcd (-128) 26 ≠ 1 ∧ Int.gcd 0 26 ≠ 1 ∧ 0xFF < 0x100 := by decide

theorem witness_ConstructionSucceedsExactlyForValidResidues :
    (-128 : Int) ≤ -1 ∧ (-1 : Int) ≤ 127 ∧ (-1 : Int) % 26 ∈ [1, 3, 5, 7, 9, 11, 15, 17, 19, 21, 23, 25] ∧
    (26 : Int) % 26 ∉ [1, 3, 5, 7, 9, 11, 15, 17, 19, 21, 23, 25] := by decide

theorem witness_FailingLoadkeyChangesNothing : (-128 : Int) ≤ -128 ∧ (-128 : Int) ≤ 127 ∧ Int.gcd (-128) 26 ≠ 1 := by
  decide

theorem witness_SearchSucceedsExactlyUnderTheGate :
    keychk (-1) = true ∧ keychk 13 = false ∧ (51 : Int) % 26 = (25 : Nat) := by decide

theorem witness_SearchTestCount :
    (keychk 5 = true ∧ modinv26 5 = some 21) ∧ keychk 26 = false ∧ (27 : Int) % 26 = 1 ∧ (-125 : Int) % 26 = 5 ∧
    (-1 : Int) % 26 = 25 := by decide

theorem witness_EncAfterLoadkeyUsesItsKey :
    (-128 : Int) ≤ 127 ∧ (127 : Int) ≤ 127 ∧ (-128 : Int) ≤ -128 ∧ (-128 : Int) ≤ 127 ∧ Int.gcd 127 26 = 1 ∧ 25 < 26 := by
  decide

theorem witness_LoadkeyFrame :
    (∃ t, exec (.loadkey 5 8) State.reset = .next t) ∧ ∃ t, exec (.loadkey 13 8) State.reset = .next t :=
  ⟨⟨_, rfl⟩, ⟨_, rfl⟩⟩

/-- The clauses of ENC and of DEC: no key, the ends of both cases, and the codes beside them. -/
theorem witness_EncFollowsItsPseudocode :
    State.reset.keyValid = false ∧ (keyed 5#8 8#8 21#5).keyValid = true ∧
    (0x41#8).toNat = 0x41 + 0 ∧ (0x5A#8).toNat = 0x41 + 25 ∧ (0x61#8).toNat = 0x61 + 0 ∧ (0x7A#8).toNat = 0x61 + 25 ∧
    (¬(0x41 ≤ (0x40#8).toNat ∧ (0x40#8).toNat ≤ 0x5A) ∧ ¬(0x61 ≤ (0x40#8).toNat ∧ (0x40#8).toNat ≤ 0x7A)) ∧
    (¬(0x41 ≤ (0x7B#8).toNat ∧ (0x7B#8).toNat ≤ 0x5A) ∧ ¬(0x61 ≤ (0x7B#8).toNat ∧ (0x7B#8).toNat ≤ 0x7A)) := by decide

theorem witness_DecFollowsItsPseudocode :
    State.reset.keyValid = false ∧ (keyed 0x7F#8 0x7F#8 17#5).keyValid = true ∧
    (0x41#8).toNat = 0x41 + 0 ∧ (0x5A#8).toNat = 0x41 + 25 ∧ (0x61#8).toNat = 0x61 + 0 ∧ (0x7A#8).toNat = 0x61 + 25 ∧
    (¬(0x41 ≤ (0x5B#8).toNat ∧ (0x5B#8).toNat ≤ 0x5A) ∧ ¬(0x61 ≤ (0x5B#8).toNat ∧ (0x5B#8).toNat ≤ 0x7A)) ∧
    (¬(0x41 ≤ (0x60#8).toNat ∧ (0x60#8).toNat ≤ 0x5A) ∧ ¬(0x61 ≤ (0x60#8).toNat ∧ (0x60#8).toNat ≤ 0x7A)) := by decide

theorem witness_MappersWriteNoState :
    (∃ t, exec (.enc 0x48#8) (keyed 5#8 8#8 21#5) = .next t) ∧ ∃ t, exec (.dec 0x48#8) State.reset = .next t :=
  ⟨⟨_, rfl⟩, ⟨_, rfl⟩⟩

theorem witness_OtherCodesPassThrough :
    (0x40#8).toNat < 0x41 ∧ (0x5A < (0x5B#8).toNat ∧ (0x60#8).toNat < 0x61) ∧ 0x7A < (0x7B#8).toNat ∧
    (keyed 5#8 8#8 21#5).keyValid = true ∧ State.reset.keyValid = false := by decide

theorem witness_CaseAndRangeAreKept : (keyed 0x81#8 0x80#8 9#5).keyValid = true ∧ 25 < 26 := by decide

theorem witness_FloorModIsTheResidue :
    (0 : Int) ≤ 0 ∧ ((-1 : Int) < 0 ∧ Int.tmod (-1) 26 ≠ 0) ∧ Int.tmod (-26) 26 = 0 := by decide

theorem witness_RoundTripOfOneCharacter :
    (keyed 0x81#8 0x80#8 9#5).KeyInv ∧ (keyed 0x81#8 0x80#8 9#5).keyValid = true := by decide

theorem witness_EachKeyPermutesEachCase :
    (keyed 5#8 8#8 21#5).KeyInv ∧ (keyed 5#8 8#8 21#5).keyValid = true ∧ 25 < 26 := by decide

theorem witness_IdentityKeysPassEverything :
    (keyed 27#8 0xE6#8 1#5).KeyInv ∧ (keyed 27#8 0xE6#8 1#5).keyValid = true ∧ (keyed 27#8 0xE6#8 1#5).a.toInt % 26 = 1 ∧
    (keyed 27#8 0xE6#8 1#5).b.toInt % 26 = 0 := by decide

/-- The keys (-1, -3) and (25, 23) of D-TEXT. -/
theorem witness_OnlyTheResiduesOfTheKeyMatter :
    (keyed 0xFF#8 0xFD#8 25#5).KeyInv ∧ (keyed 25#8 23#8 25#5).KeyInv ∧ (keyed 0xFF#8 0xFD#8 25#5).keyValid = true ∧
    (keyed 25#8 23#8 25#5).keyValid = true ∧
    ((keyed 0xFF#8 0xFD#8 25#5).a.toInt % 26 = (keyed 25#8 23#8 25#5).a.toInt % 26 ∧
      (keyed 0xFF#8 0xFD#8 25#5).b.toInt % 26 = (keyed 25#8 23#8 25#5).b.toInt % 26) ∧
    (answerOf (exec (.enc 0x41#8) (keyed 0xFF#8 0xFD#8 25#5)) = answerOf (exec (.enc 0x41#8) (keyed 25#8 23#8 25#5)) ∧
      answerOf (exec (.enc 0x42#8) (keyed 0xFF#8 0xFD#8 25#5)) = answerOf (exec (.enc 0x42#8) (keyed 25#8 23#8 25#5))) ∧
    (-1 : Int) % 26 = 25 % 26 := by decide

/-- Two states that differ where each command does not look. -/
theorem witness_EachCommandReadsOnlyWhatTheTableSays :
    (∃ t, exec (.loadkey 5 8) State.reset = .next t) ∧ (∃ t, exec (.loadkey 5 8) (keyed 3#8 1#8 9#5) = .next t) ∧
    (keyed 5#8 8#8 21#5).keyValid = (keyed 5#8 8#8 0#5).keyValid ∧ (keyed 5#8 8#8 21#5).a = (keyed 5#8 8#8 0#5).a ∧
    (keyed 5#8 8#8 21#5).invA = (keyed 0#8 8#8 21#5).invA ∧ (keyed 5#8 8#8 21#5).b = (keyed 0#8 8#8 21#5).b ∧
    opField 0x3FFFFFFF#32 = 0b00#2 ∧ rsvField 0x41050800#32 ≠ 0#6 := ⟨⟨_, rfl⟩, ⟨_, rfl⟩, by decide⟩

theorem witness_UnspecifiedRegistersNeverShow : State.reset.keyValid = false := by decide

/-- A passing LOADKEY without a key, and a reset with one. -/
theorem witness_KeyValidChangesOnlyByLoadkeyAndReset :
    (∃ t, step (shown State.reset 0x40050800#32) = .next t ∧ State.reset.keyValid = false ∧ t.keyValid = true) ∧
    (∃ t, step { keyed 5#8 8#8 21#5 with host := [.reset] } = .next t ∧ (keyed 5#8 8#8 21#5).keyValid = true ∧
      t.keyValid = false) ∧
    ((shown State.reset 0x40050800#32).nextAction = some (.command 0x40050800#32) ∧
      (shown State.reset 0x40050800#32).response = none ∧ decode 0x40050800#32 = .ok (.loadkey 5 8) ∧
      Int.gcd 5 26 = 1) :=
  ⟨⟨_, rfl, by decide, by decide⟩, ⟨_, rfl, by decide, by decide⟩, by decide⟩

theorem witness_KeyRegistersChangeOnlyByLoadkeyOrReset :
    (∃ t, step (shown State.reset 0x40050800#32) = .next t) ∧
    (shown State.reset 0x40050800#32).nextAction ≠ some .reset := ⟨⟨_, rfl⟩, by decide⟩

theorem witness_RepeatedCommandIsIdempotent : ∃ t, exec (.loadkey (-1) (-3)) (keyed 5#8 8#8 21#5) = .next t := ⟨_, rfl⟩

theorem witness_EveryStepKeepsTheInvariant :
    (shown (keyed 5#8 8#8 21#5) 0x40070300#32).Inv ∧
    ∃ t, step (shown (keyed 5#8 8#8 21#5) 0x40070300#32) = .next t := ⟨by decide, ⟨_, rfl⟩⟩

theorem witness_TextOperationMapsEachCharacter :
    (keyed 5#8 8#8 21#5).keyValid = true ∧ (keyed 5#8 8#8 21#5).response = none ∧
    [0x5A#8, 0x5B#8][1]? = some 0x5B#8 := by decide

theorem witness_TextWithoutKeyFailsAsAWhole : State.reset.keyValid = false ∧ State.reset.response = none := by decide

/-- With the text `Z[`, whose second character is no letter. -/
theorem witness_DecryptOfEncryptIsTheText :
    (keyed 5#8 8#8 21#5).KeyInv ∧ (keyed 5#8 8#8 21#5).keyValid = true ∧ (keyed 5#8 8#8 21#5).response = none ∧
    [0x5A#8, 0x5B#8][1]? = some 0x5B#8 ∧ (0x5A < (0x5B#8).toNat ∧ (0x5B#8).toNat < 0x61) := by decide

theorem witness_PortsRefineTheCommandLevelMachine :
    (shown (keyed 5#8 8#8 21#5) 0xC0000043#32).host = .command 0xC0000043#32 :: [] ∧
    (shown (keyed 5#8 8#8 21#5) 0xC0000043#32).response = none := by decide

theorem witness_StreamOfCommandsIsAnsweredInOrder :
    ({ State.reset with host := [.command 0x40050800#32, .take, .command 0x80000048#32, .take, .reset] } : State).host =
      ([0x40050800#32, 0x80000048#32].flatMap fun w => [HostAction.command w, .take]) ++ [.reset] ∧
    State.reset.response = none := by decide

theorem witness_SeveralCoresDoNotInterfere : (0 : Nat) ≠ 1 := by decide

end Sys2Proof.Tests
end

section
/-! Scope: the refinement of the command-level machine (R8, R13), totality of the step, the floor-mod, and the step on
a presented word and with no host action. -/

namespace Sys2Proof.Machine

/-! ### Residues of 26: the gate and the inverse -/

/-- A fact about the 26 residues holds of the residue of every integer. -/
theorem of_residues {P : Int → Prop} (h : ∀ r : Fin 26, P (r : Nat)) (a : Int) : P (a % 26) := by
  have hr : ((a % 26).toNat : Int) = a % 26 := by omega
  exact hr ▸ h ⟨(a % 26).toNat, by omega⟩

/-- The gate sees the residue of `a` only (R52, R88). -/
theorem keychk_emod (a : Int) : keychk (a % 26) = keychk a := by
  rw [keychk, keychk, Config.modulus, Int.gcd_emod]

/-- The loop of MODINV sees the residue of `a` only (R56). -/
theorem modinvSearch_emod (a : Int) (fuel i : Nat) : modinvSearch (a % 26) fuel i = modinvSearch a fuel i := by
  induction fuel generalizing i with
  | zero => rfl
  | succ n ih =>
    have hmul : a % 26 * i % 26 = a * i % 26 := (Int.mod_modEq a 26).mul_right i
    simp only [modinvSearch, floorMod_eq_emod, hmul, ih]

/-- MODINV sees the residue of `a` only (R56, R88). -/
theorem modinv26_emod (a : Int) : modinv26 (a % 26) = modinv26 a := modinvSearch_emod a 26 0

/-- The table lookup sees the residue of `a` only (R56). -/
theorem inverseByTable_emod (a : Int) : inverseByTable (a % 26) = inverseByTable a := by
  simp [inverseByTable]

/-- The gate is "odd and not a multiple of 13" (R52). -/
theorem keychk_iff_odd_and_not_thirteen (a : Int) : keychk a = true ↔ a % 2 = 1 ∧ a % 13 ≠ 0 := by
  have h := of_residues (P := fun r => keychk r = true ↔ r % 2 = 1 ∧ r % 13 ≠ 0) (by decide) a
  rwa [keychk_emod, Int.emod_emod_of_dvd a (by decide), Int.emod_emod_of_dvd a (by decide)] at h

/-- Under the gate the search finds what the table holds (R56, R62). -/
theorem modinv26_eq_inverseByTable {a : Int} (h : keychk a = true) : modinv26 a = some (inverseByTable a) := by
  have hr := of_residues (P := fun r => keychk r = true → modinv26 r = some (inverseByTable r)) (by decide) a
  rw [keychk_emod, modinv26_emod, inverseByTable_emod] at hr
  exact hr h

/-- The table holds residues (R56). -/
theorem inverseByTable_lt (a : Int) : inverseByTable a < 26 := by
  have hr := of_residues (P := fun r => inverseByTable r < 26) (by decide) a
  rwa [inverseByTable_emod] at hr

/-! ### LOADKEY in one equation, and totality -/

/-- LOADKEY in one equation: the gate decides, and the inverse is that of the table, so the arm of a search that found
nothing is never taken (R58, R61). -/
theorem loadKey_eq (a b : KeyByte) (s : State) :
    loadKey a b s = .next (if keychk (sext8 a) then
      (s.writeKey a b (BitVec.ofNat 5 (inverseByTable (sext8 a)))).respond
        (responseWord .ok (BitVec.ofNat 5 (inverseByTable (sext8 a))) 0#8)
      else s.respond (responseWord .invalidKey 0#5 0#8)) := by
  unfold loadKey
  split
  case isTrue h =>
    rw [modinv26_eq_inverseByTable h]
    rfl
  case isFalse => rfl

/-- Every command answers a next state (R8). -/
theorem exec_total (i : Instr) (s : State) : ∃ t, exec i s = .next t := by
  cases i with
  | loadkey a b => exact ⟨_, loadKey_eq (keyOperand a) (keyOperand b) s⟩
  | enc ch => exact ⟨_, exec_enc_eq ch s⟩
  | dec ch => exact ⟨_, exec_dec_eq ch s⟩

/-! ### Command words as numbers -/

/-- The top byte of a word is OP and RSV (R39). -/
theorem topByte_eq (w : CommandWord) :
    w.toNat / 0x1000000 = (opField w).toNat * 0x40 + (rsvField w).toNat := by
  rw [opField_toNat, rsvField_toNat]
  omega

/-- The two's complement reading of a byte is that of its number (R10). -/
theorem signedByte_toNat (v : KeyByte) : signedByte v.toNat = v.toInt := by
  rw [signedByte, BitVec.toInt_eq_toNat_cond]
  split <;> split <;> omega

/-- A word that decodes to LOADKEY, as a number (R39, R40, R47). -/
theorem decode_loadkey_toNat {w : CommandWord} {a b : Int} (h : decode w = .ok (.loadkey a b)) :
    w.toNat / 0x1000000 = 0x40 ∧ a = signedByte (w.toNat / 0x10000 % 0x100) ∧
      b = signedByte (w.toNat / 0x100 % 0x100) := by
  obtain ⟨hr, ⟨ho, hi⟩ | ⟨-, hi⟩ | ⟨-, hi⟩⟩ := decode_cases h <;> cases hi
  rw [topByte_eq, ho, hr, ← aField_toNat, ← bField_toNat, signedByte_toNat, signedByte_toNat]
  exact ⟨rfl, rfl, rfl⟩

/-- A word that decodes to ENC, as a number (R39, R47). -/
theorem decode_enc_toNat {w : CommandWord} {ch : CharCode} (h : decode w = .ok (.enc ch)) :
    w.toNat / 0x1000000 = 0x80 ∧ ch.toNat = w.toNat % 0x100 := by
  obtain ⟨hr, ⟨-, hi⟩ | ⟨ho, hi⟩ | ⟨-, hi⟩⟩ := decode_cases h <;> cases hi
  rw [topByte_eq, ho, hr, chField_toNat]
  exact ⟨rfl, rfl⟩

/-- A word that decodes to DEC, as a number (R39, R47). -/
theorem decode_dec_toNat {w : CommandWord} {ch : CharCode} (h : decode w = .ok (.dec ch)) :
    w.toNat / 0x1000000 = 0xC0 ∧ ch.toNat = w.toNat % 0x100 := by
  obtain ⟨hr, ⟨-, hi⟩ | ⟨-, hi⟩ | ⟨ho, hi⟩⟩ := decode_cases h <;> cases hi
  rw [topByte_eq, ho, hr, chField_toNat]
  exact ⟨rfl, rfl⟩

/-- A word that is no command has a top byte of no command (R44, R47). -/
theorem decode_error_toNat {w : CommandWord} {e : DecodeError} (h : decode w = .error e) :
    w.toNat / 0x1000000 ≠ 0x40 ∧ w.toNat / 0x1000000 ≠ 0x80 ∧ w.toNat / 0x1000000 ≠ 0xC0 := by
  have hlt := (rsvField w).isLt
  rw [topByte_eq]
  obtain ho | hr := (decode_error_iff w).1 ⟨e, h⟩
  · rw [ho, BitVec.toNat_ofNat]
    omega
  · have hr' : (rsvField w).toNat ≠ 0 := fun h0 => hr (BitVec.eq_of_toNat_eq h0)
    omega

/-! ### The command-level machine, one equation per decoded command -/

/-- LOADKEY on the command-level machine: the gate and the inverse of the table (R52, R56, R58). -/
theorem commandStep_of_loadkey {w : CommandWord} {a b : Int} (h : decode w = .ok (.loadkey a b)) (k : Option Key) :
    commandStep k w = if keychk a then (some ⟨a, b, inverseByTable a⟩, BitVec.ofNat 16 (0x100 * inverseByTable a))
      else (k, 0x4000#16) := by
  obtain ⟨htop, rfl, rfl⟩ := decode_loadkey_toNat h
  simp only [commandStep, htop, keychk_iff_odd_and_not_thirteen, if_true]

/-- ENC on the command-level machine keeps the key (R69). -/
theorem commandStep_of_enc {w : CommandWord} {ch : CharCode} (h : decode w = .ok (.enc ch)) (k : Option Key) :
    commandStep k w = (k, k.elim 0x8000#16 fun key =>
      BitVec.ofNat 16 (mapCode (fun p => (key.a * p + key.b) % 26) ch.toNat)) := by
  obtain ⟨htop, hch⟩ := decode_enc_toNat h
  cases k <;> simp [commandStep, htop, hch]

/-- DEC on the command-level machine keeps the key (R71). -/
theorem commandStep_of_dec {w : CommandWord} {ch : CharCode} (h : decode w = .ok (.dec ch)) (k : Option Key) :
    commandStep k w = (k, k.elim 0x8000#16 fun key =>
      BitVec.ofNat 16 (mapCode (fun c => (key.inv * (c - key.b)) % 26) ch.toNat)) := by
  obtain ⟨htop, hch⟩ := decode_dec_toNat h
  cases k <;> simp [commandStep, htop, hch]

/-- A word that is no command, on the command-level machine (R44). -/
theorem commandStep_of_error {w : CommandWord} {e : DecodeError} (h : decode w = .error e) (k : Option Key) :
    commandStep k w = (k, 0xC000#16) := by
  obtain ⟨h1, h2, h3⟩ := decode_error_toNat h
  simp [commandStep, h1, h2, h3]

/-! ### The simulation: states and their views -/

@[simp] theorem State.view_respond (s : State) (r : ResponseWord) : (s.respond r).view = s.view := rfl

@[simp] theorem State.view_writeKey (s : State) (a b : KeyByte) (inv : InvWord) :
    (s.writeKey a b inv).view = some ⟨a.toInt, b.toInt, inv.toNat⟩ := rfl

/-- Reading the key of the view is reading the registers when KEY_VALID = 1 (R13). -/
theorem State.elim_view {α : Type} (s : State) (x : α) (g : Key → α) :
    s.view.elim x g = if s.keyValid then g ⟨s.a.toInt, s.b.toInt, s.invA.toNat⟩ else x := by
  unfold State.view
  split <;> rfl

/-- An ST = OK response with INV = 0 is the number of its character (R42). -/
theorem responseWord_ok_char (ch : CharCode) : responseWord .ok 0#5 ch = BitVec.ofNat 16 ch.toNat := by
  have h := ch.isLt
  apply BitVec.eq_of_toNat_eq
  simp only [responseWord_toNat, BitVec.toNat_ofNat, Status.code]
  omega

/-- An ST = OK response with CH = 0 is the number of its inverse, in INV (R42). -/
theorem responseWord_ok_inv {n : Nat} (h : n < 32) :
    responseWord .ok (BitVec.ofNat 5 n) 0#8 = BitVec.ofNat 16 (0x100 * n) := by
  apply BitVec.eq_of_toNat_eq
  simp only [responseWord_toNat, BitVec.toNat_ofNat, Status.code]
  omega

/-- Mapping a character is mapping its code, when the map of positions stays in 0..25 (R67, R69, R71). -/
theorem mapLetter_toNat {f : Int → Int} (hf : ∀ p, 0 ≤ f p ∧ f p < 26) (ch : CharCode) :
    (mapLetter f ch).toNat = mapCode f ch.toNat := by
  obtain ⟨p, hp, h, -⟩ | ⟨p, hp, h, -⟩ | ⟨hu, hl, h⟩ := char_cases ch
  · have := hf p
    have hpos : (ch.toNat : Int) - 0x41 = p := by omega
    rw [mapLetter_upper hp h, mapCode, if_pos (by omega), hpos, BitVec.toNat_ofNat]
    omega
  · have := hf p
    have hpos : (ch.toNat : Int) - 0x61 = p := by omega
    rw [mapLetter_lower hp h, mapCode, if_neg (by omega), if_pos (by omega), hpos, BitVec.toNat_ofNat]
    omega
  · rw [mapLetter_other h, mapCode, if_neg hu, if_neg hl]

/-- The forward map is `%` on the integers (R66, R69). -/
theorem forward_eq (a b : Int) : forward a b = fun p => (a * p + b) % 26 :=
  funext fun p => floorMod_eq_emod (a * p + b)

/-- The backward map is `%` on the integers (R66, R71). -/
theorem backward_eq (inv b : Int) : backward inv b = fun c => (inv * (c - b)) % 26 :=
  funext fun c => floorMod_eq_emod (inv * (c - b))

/-- What a character mapper answers, as a number: its mapped code, or NO_KEY (R42, R69, R71). -/
theorem mapper_response {f : Int → Int} (hf : ∀ p, 0 ≤ f p ∧ f p < 26) (ch : CharCode) (s : State) :
    (if s.keyValid then responseWord .ok 0#5 (mapLetter f ch) else responseWord .noKey 0#5 0#8) =
      if s.keyValid then BitVec.ofNat 16 (mapCode f ch.toNat) else 0x8000#16 := by
  rw [responseWord_ok_char, mapLetter_toNat hf]
  rfl

/-- LOADKEY with an `a` of the field, in the numbers of the command-level machine (R56, R58). -/
theorem exec_loadkey_eq {a : Int} (ha : fitsKeyField a = true) (b : Int) (s : State) :
    exec (.loadkey a b) s = .next (if keychk a then
      (s.writeKey (keyOperand a) (keyOperand b) (BitVec.ofNat 5 (inverseByTable a))).respond
        (BitVec.ofNat 16 (0x100 * inverseByTable a))
      else s.respond 0x4000#16) := by
  have hlt := inverseByTable_lt a
  have h := loadKey_eq (keyOperand a) (keyOperand b) s
  rw [sext8_keyOperand ha, responseWord_ok_inv (by omega)] at h
  exact h

/-- The simulation of one command: it does to the view what the command-level machine does to the key, with the same
response. -/
theorem exec_refines {w : CommandWord} {i : Instr} (h : decode w = .ok i) {s t : State} (ht : exec i s = .next t) :
    t.view = (commandStep s.view w).1 ∧ t.response = some (commandStep s.view w).2 := by
  cases i with
  | loadkey a b =>
    obtain ⟨ha, hb⟩ := (Bool.and_eq_true_iff ..).1 (decode_wellFormed h)
    have hinv : inverseByTable a < 32 := (inverseByTable_lt a).trans (by decide)
    cases (exec_loadkey_eq ha b s).symm.trans ht
    rw [commandStep_of_loadkey h]
    split
    · simp [keyOperand, toInt_keyField, ha, hb, hinv]
    · exact ⟨rfl, rfl⟩
  | enc ch =>
    cases (exec_enc_eq ch s).symm.trans ht
    rw [commandStep_of_enc h, mapper_response (by simp only [forward_eq]; omega), forward_eq,
      State.elim_view]
    exact ⟨rfl, rfl⟩
  | dec ch =>
    cases (exec_dec_eq ch s).symm.trans ht
    rw [commandStep_of_dec h, mapper_response (by simp only [backward_eq]; omega), backward_eq,
      State.elim_view]
    exact ⟨rfl, rfl⟩

/-! ### The obligations -/

/-- Settles O45: a word that is a command runs by `exec_refines`, one that is none leaves the view as it is. -/
theorem portsRefineTheCommandLevelMachine : Obligations.PortsRefineTheCommandLevelMachine := by
  intro s w rest hh hr
  rw [step_command hh hr, runWord]
  rcases hd : decode w with e | i
  · exact ⟨_, rfl, by rw [commandStep_of_error hd]; rfl, by rw [commandStep_of_error hd]; rfl, rfl, rfl⟩
  · obtain ⟨t, ht⟩ := exec_total i { s with host := rest }
    obtain ⟨hview, hresp⟩ := exec_refines hd ht
    obtain ⟨hhost, hobs, -, -⟩ := exec_keeps_host ht
    exact ⟨t, ht, hview, hresp, hhost, hobs⟩

/-- Settles O11: of the things a step can do, only running a command is not a next state by its own equation. -/
theorem everyStepAnswersANextState : Obligations.EveryStepAnswersANextState := by
  intro s
  obtain ⟨w, rest, i, -, -, -, hs⟩ | ⟨w, rest, e, -, -, -, hs⟩ | ⟨w, rest, r, -, -, hs⟩ | ⟨rest, r, -, -, hs⟩ |
    ⟨rest, -, -, hs⟩ | ⟨rest, -, hs⟩ | ⟨-, hs⟩ := step_cases s
  · rw [hs]
    exact exec_total i _
  all_goals exact ⟨_, hs⟩

/-- Settles O30: the floor-mod is `%`, which differs from the truncating remainder by 26 exactly for a negative number
that is no multiple of 26. -/
theorem floorModIsTheResidue : Obligations.FloorModIsTheResidue := by
  intro x
  rw [floorMod_eq_emod]
  refine ⟨by omega, by omega, ⟨x / 26, by omega⟩, fun hx => ?_, fun hx hrem => ?_, fun hrem => ?_⟩
  · exact (Int.tmod_eq_emod_of_nonneg hx).symm
  · have hdvd : ¬(0 ≤ x ∨ 26 ∣ x) := not_or.2 ⟨by omega, mt Int.dvd_iff_tmod_eq_zero.1 hrem⟩
    rw [Int.tmod_eq_emod, if_neg hdvd]
    omega
  · exact Int.emod_eq_zero_of_dvd (Int.dvd_of_tmod_eq_zero hrem)

/-- Settles O5: the step is `runWord`, which runs what the word decodes to. -/
theorem stepRunsThePresentedCommand : Obligations.StepRunsThePresentedCommand := by
  intro s w rest i hh hr hd
  simp only [step_command hh hr, runWord, hd]

/-- Settles O9: with an empty list the port event is the quiet one. -/
theorem idleCoreHoldsItsState : Obligations.IdleCoreHoldsItsState := by
  intro s h
  simp only [step, nextPortEvent, h]

end Sys2Proof.Machine
end

section
/-! Scope: what reads and writes the key (R14 to R19), the registers no key is held in (R25), and the invariant of the
core and its response port (R18, R43). -/

namespace Sys2Proof.Machine

/-! ### The inverse that LOADKEY writes -/

/-- Under the gate the table holds an inverse (R54, R56). -/
theorem mul_inverseByTable_emod {a : Int} (h : keychk a = true) : (a * inverseByTable a) % 26 = 1 := by
  obtain ⟨-, -, hone, -⟩ := modinvSearch_some (modinv26_eq_inverseByTable h)
  rwa [floorMod_eq_emod] at hone

/-- Under the gate the table holds a valid residue (R43, R53). -/
theorem inverseByTable_mem_validA {a : Int} (h : keychk a = true) : inverseByTable a ∈ validA := by
  have hr := of_residues (P := fun r => keychk r = true → inverseByTable r ∈ validA) (by decide) a
  rw [keychk_emod, inverseByTable_emod] at hr
  exact hr h

/-- INV_A holds the inverse of the table unchanged: it fits its 5 bits (R16). -/
theorem toNat_ofNat_inverseByTable (a : Int) : (BitVec.ofNat 5 (inverseByTable a)).toNat = inverseByTable a := by
  have h := inverseByTable_lt a
  rw [BitVec.toNat_ofNat]
  omega

/-! ### LOADKEY on any operands, and the steps that run no command -/

/-- LOADKEY in one equation on any operands, through their 8-bit fields (R58; log 7). -/
theorem exec_loadkey_fields_eq (a b : Int) (s : State) :
    exec (.loadkey a b) s = .next (if keychk (sext8 (keyOperand a)) then
      (s.writeKey (keyOperand a) (keyOperand b) (BitVec.ofNat 5 (inverseByTable (sext8 (keyOperand a))))).respond
        (responseWord .ok (BitVec.ofNat 5 (inverseByTable (sext8 (keyOperand a)))) 0#8)
      else s.respond (responseWord .invalidKey 0#5 0#8)) :=
  loadKey_eq _ _ _

/-- An untaken response holds a command back (R28; log 3). -/
theorem step_command_waits {s : State} {w : CommandWord} {rest : List HostAction} {r : ResponseWord}
    (h : s.host = .command w :: rest) (hr : s.response = some r) : step s = .next s := by
  simp [step, nextPortEvent, State.ready, h, hr]

/-- A take hands the pending response over (R28). -/
theorem step_take {s : State} {rest : List HostAction} {r : ResponseWord} (h : s.host = .take :: rest)
    (hr : s.response = some r) : step s = .next (({ s with host := rest } : State).deliver r) := by
  simp only [step, nextPortEvent, h, hr]

/-- A take waits for a response (R109; log 3). -/
theorem step_take_waits {s : State} {rest : List HostAction} (h : s.host = .take :: rest)
    (hr : s.response = none) : step s = .next s := by
  simp only [step, nextPortEvent, h, hr]

/-- The next action heads the host's list (R109). -/
theorem State.host_of_nextAction {s : State} {x : HostAction} (h : s.nextAction = some x) :
    ∃ rest, s.host = x :: rest :=
  List.head?_eq_some_iff.1 h

/-- A reset is never held back by the core (R110). -/
theorem step_reset {s : State} {rest : List HostAction} (h : s.host = .reset :: rest) :
    step s = .next (({ s with host := rest } : State).resetEvent) := by
  simp only [step, nextPortEvent, h]

/-! ### What a command and a step can do to the key -/

/-- `t` holds the four key elements as `s` does (R13). -/
def State.SameKey (s t : State) : Prop :=
  t.a = s.a ∧ t.b = s.b ∧ t.invA = s.invA ∧ t.keyValid = s.keyValid

/-- `t` holds the key of a passing LOADKEY with the operands `a` and `b` (R14 to R17). -/
def State.HoldsKeyOf (t : State) (a b : Int) : Prop :=
  t.keyValid = true ∧ t.a.toInt = a ∧ t.b.toInt = b ∧ (a * t.invA.toNat) % 26 = 1 ∧ t.invA.toNat < 26

/-- A passing LOADKEY leaves its key held (R58). -/
theorem exec_loadkey_holdsKeyOf {a b : Int} {s t : State} (hw : (Instr.loadkey a b).WellFormed)
    (hg : keychk a = true) (h : exec (.loadkey a b) s = .next t) : t.HoldsKeyOf a b := by
  obtain ⟨ha, hb⟩ := (Bool.and_eq_true_iff ..).1 hw
  rw [exec_loadkey_eq ha, if_pos hg] at h
  cases h
  refine ⟨rfl, toInt_keyField a ha, toInt_keyField b hb, ?_, ?_⟩
  · rw [State.respond_invA, State.writeKey_invA, toNat_ofNat_inverseByTable]
    exact mul_inverseByTable_emod hg
  · rw [State.respond_invA, State.writeKey_invA, toNat_ofNat_inverseByTable]
    exact inverseByTable_lt a

/-- A command keeps the key, or is a LOADKEY that passes the gate (R17, R19). -/
theorem exec_sameKey_or_loadkey {i : Instr} {s t : State} (h : exec i s = .next t) :
    s.SameKey t ∨ ∃ a b, i = .loadkey a b ∧ keychk (sext8 (keyOperand a)) = true := by
  cases i with
  | loadkey a b =>
    obtain ⟨-, hg, -, -⟩ | rfl := loadKey_cases h
    · exact .inr ⟨a, b, rfl, hg⟩
    · exact .inl ⟨rfl, rfl, rfl, rfl⟩
  | enc ch =>
    cases (exec_enc_eq ch s).symm.trans h
    exact .inl ⟨rfl, rfl, rfl, rfl⟩
  | dec ch =>
    cases (exec_dec_eq ch s).symm.trans h
    exact .inl ⟨rfl, rfl, rfl, rfl⟩

/-- Everything a step can do to the key: keep it, forget it by a reset, or load one that passes the gate (R14 to R17,
R110). -/
theorem step_key_cases {s t : State} (h : step s = .next t) :
    s.SameKey t ∨ (s.nextAction = some .reset ∧ t.keyValid = false) ∨
      ∃ w a b, s.nextAction = some (.command w) ∧ decode w = .ok (.loadkey a b) ∧ Int.gcd a 26 = 1 ∧
        t.HoldsKeyOf a b := by
  obtain ⟨w, rest, i, hh, -, hd, hs⟩ | ⟨w, rest, e, -, -, -, hs⟩ | ⟨w, rest, r, -, -, hs⟩ | ⟨rest, r, -, -, hs⟩ |
    ⟨rest, -, -, hs⟩ | ⟨rest, hh, hs⟩ | ⟨-, hs⟩ := step_cases s <;> rw [hs] at h
  -- a word that is a command runs
  case inl =>
    obtain hsame | ⟨a, b, rfl, hg⟩ := exec_sameKey_or_loadkey h
    · exact .inl hsame
    · have hw := decode_wellFormed hd
      rw [sext8_keyOperand ((Bool.and_eq_true_iff ..).1 hw).1] at hg
      exact .inr (.inr ⟨w, a, b, congrArg List.head? hh, hd, keychk_eq_true.1 hg, exec_loadkey_holdsKeyOf hw hg h⟩)
  -- a reset
  case inr.inr.inr.inr.inr.inl =>
    cases h
    exact .inr (.inl ⟨congrArg List.head? hh, rfl⟩)
  -- every other step writes no key element
  all_goals
    cases h
    exact .inl ⟨rfl, rfl, rfl, rfl⟩

/-! ### What each command reads -/

/-- LOADKEY reads its operands alone: from every two states it answers alike, and leaves the same key in both or each
state's own (R19). -/
theorem exec_loadkey_reads_operands (a b : Int) (s s' : State) :
    answerOf (exec (.loadkey a b) s) = answerOf (exec (.loadkey a b) s') ∧
      ∀ t t' : State, exec (.loadkey a b) s = .next t → exec (.loadkey a b) s' = .next t' →
        t'.SameKey t ∨ (s.SameKey t ∧ s'.SameKey t') := by
  rw [exec_loadkey_fields_eq, exec_loadkey_fields_eq]
  split
  case isTrue =>
    refine ⟨rfl, fun t t' ht ht' => .inl ?_⟩
    cases ht
    cases ht'
    exact ⟨rfl, rfl, rfl, rfl⟩
  case isFalse =>
    refine ⟨rfl, fun t t' ht ht' => .inr ?_⟩
    cases ht
    cases ht'
    exact ⟨⟨rfl, rfl, rfl, rfl⟩, rfl, rfl, rfl, rfl⟩

/-- ENC reads KEY_VALID, and A and B under a key (R19, R75). -/
theorem answerOf_enc_congr (ch : CharCode) {s s' : State} (hk : s.keyValid = s'.keyValid)
    (hregs : s.keyValid = true → s.a = s'.a ∧ s.b = s'.b) :
    answerOf (exec (.enc ch) s) = answerOf (exec (.enc ch) s') := by
  rw [exec_enc_eq, exec_enc_eq, ← hk]
  split
  case isTrue hv =>
    obtain ⟨ha, hb⟩ := hregs hv
    rw [State.aInt, State.aInt, State.bInt, State.bInt, ha, hb]
    rfl
  case isFalse => rfl

/-- DEC reads KEY_VALID, and INV_A and B under a key (R19, R76). -/
theorem answerOf_dec_congr (ch : CharCode) {s s' : State} (hk : s.keyValid = s'.keyValid)
    (hregs : s.keyValid = true → s.invA = s'.invA ∧ s.b = s'.b) :
    answerOf (exec (.dec ch) s) = answerOf (exec (.dec ch) s') := by
  rw [exec_dec_eq, exec_dec_eq, ← hk]
  split
  case isTrue hv =>
    obtain ⟨hi, hb⟩ := hregs hv
    rw [State.invAInt, State.invAInt, State.bInt, State.bInt, hi, hb]
    rfl
  case isFalse => rfl

/-- An illegal word reads nothing (R19, R44). -/
theorem answerOf_runWord_of_error {w : CommandWord} {e : DecodeError} (h : decode w = .error e) (s : State) :
    answerOf (runWord w s) = some (responseWord .illegalCmd 0#5 0#8) := by
  rw [runWord, h]
  rfl

/-! ### The registers while no key is held -/

/-- The same state with other contents of A, B and INV_A. -/
def State.withRegisters (s : State) (x y : KeyByte) (z : InvWord) : State := { s with a := x, b := y, invA := z }

/-- `t'` is `t`, or differs from it in the registers alone while no key is held (R25). -/
def State.EqualButUnheld (t t' : State) : Prop :=
  t' = t ∨ (t.keyValid = false ∧ ∃ x y z, t' = t.withRegisters x y z)

/-- What such states share (R25). -/
theorem State.EqualButUnheld.visible {t t' : State} (h : t.EqualButUnheld t') :
    t.response = t'.response ∧ t.observed = t'.observed ∧ t.host = t'.host ∧ t.keyValid = t'.keyValid ∧
      (t.keyValid = true → t = t') := by
  obtain rfl | ⟨hk, x, y, z, rfl⟩ := h
  · exact ⟨rfl, rfl, rfl, rfl, fun _ => rfl⟩
  · exact ⟨rfl, rfl, rfl, rfl, fun hk' => Bool.noConfusion (hk.symm.trans hk')⟩

/-- With no key held, a command does the same whatever the registers hold: a passing LOADKEY overwrites them and every
other command ignores them (R19, R25). -/
theorem exec_withRegisters (i : Instr) {s : State} (hk : s.keyValid = false) (x y : KeyByte) (z : InvWord) :
    ∃ t t', exec i s = .next t ∧ exec i (s.withRegisters x y z) = .next t' ∧ t.EqualButUnheld t' := by
  have hk' : (s.withRegisters x y z).keyValid = false := hk
  cases i with
  | loadkey a b =>
    refine ⟨_, _, exec_loadkey_fields_eq a b s, exec_loadkey_fields_eq a b _, ?_⟩
    split
    · exact .inl rfl
    · exact .inr ⟨hk, x, y, z, rfl⟩
  | enc ch =>
    refine ⟨_, _, exec_enc_eq ch s, exec_enc_eq ch _, .inr ⟨hk, x, y, z, ?_⟩⟩
    simp only [hk, hk']
    rfl
  | dec ch =>
    refine ⟨_, _, exec_dec_eq ch s, exec_dec_eq ch _, .inr ⟨hk, x, y, z, ?_⟩⟩
    simp only [hk, hk']
    rfl

/-- With no key held, a step does the same whatever the registers hold; a reset gives both the same free values (R25). -/
theorem step_withRegisters {s : State} (hk : s.keyValid = false) (x y : KeyByte) (z : InvWord) :
    ∃ t t', step s = .next t ∧ step (s.withRegisters x y z) = .next t' ∧ t.EqualButUnheld t' := by
  rcases hh : s.host with _ | ⟨w | _ | _, rest⟩
  case nil => exact ⟨_, _, idleCoreHoldsItsState s hh, idleCoreHoldsItsState _ hh, .inr ⟨hk, x, y, z, rfl⟩⟩
  case cons.command =>
    rcases hr : s.response with _ | r
    · rw [step_command hh hr, step_command (s := s.withRegisters x y z) hh hr, runWord, runWord]
      rcases decode w with e | i
      · exact ⟨_, _, rfl, rfl, .inr ⟨hk, x, y, z, rfl⟩⟩
      · exact exec_withRegisters i (s := { s with host := rest }) hk x y z
    · exact ⟨_, _, step_command_waits hh hr, step_command_waits (s := s.withRegisters x y z) hh hr,
        .inr ⟨hk, x, y, z, rfl⟩⟩
  case cons.take =>
    rcases hr : s.response with _ | r
    · exact ⟨_, _, step_take_waits hh hr, step_take_waits (s := s.withRegisters x y z) hh hr,
        .inr ⟨hk, x, y, z, rfl⟩⟩
    · exact ⟨_, _, step_take hh hr, step_take (s := s.withRegisters x y z) hh hr, .inr ⟨hk, x, y, z, rfl⟩⟩
  case cons.reset => exact ⟨_, _, step_reset hh, step_reset (s := s.withRegisters x y z) hh, .inl rfl⟩

/-- Every step keeps two states equal but for registers no key is held in (R25). -/
theorem step_keeps_equalButUnheld {s s' : State} (h : s.EqualButUnheld s') :
    ∃ t t', step s = .next t ∧ step s' = .next t' ∧ t.EqualButUnheld t' := by
  obtain rfl | ⟨hk, x, y, z, rfl⟩ := h
  · obtain ⟨t, ht⟩ := everyStepAnswersANextState s'
    exact ⟨t, t, ht, ht, .inl rfl⟩
  · exact step_withRegisters hk x y z

/-- So does any number of steps. -/
theorem runSteps_keeps_equalButUnheld (n : Nat) {s s' : State} (h : s.EqualButUnheld s') :
    ∃ t t', runSteps n s = .next t ∧ runSteps n s' = .next t' ∧ t.EqualButUnheld t' := by
  induction n generalizing s s' with
  | zero => exact ⟨s, s', rfl, rfl, h⟩
  | succ n ih =>
    obtain ⟨t, t', ht, ht', hrel⟩ := step_keeps_equalButUnheld h
    simpa only [runSteps, ht, ht'] using ih hrel

/-! ### The response words -/

/-- An inverse the table holds under the gate makes a legal LOADKEY response (R43). -/
theorem legalResponse_inverse {n : Nat} (h : n ∈ validA) : legalResponse (BitVec.ofNat 16 (0x100 * n)) = true := by
  have hall : ∀ m ∈ validA, legalResponse (BitVec.ofNat 16 (0x100 * m)) = true := by decide
  exact hall n h

/-- Every character makes a legal ST = OK response (R43). -/
theorem legalResponse_char (ch : CharCode) : legalResponse (responseWord .ok 0#5 ch) = true := by
  have hlt : (responseWord .ok 0#5 ch).toNat < 0x100 := by
    have h := ch.isLt
    simp only [responseWord_toNat, Status.code, BitVec.toNat_ofNat]
    omega
  simp [legalResponse, hlt]

/-- A status with INV = 0 and CH = 0 is a legal response (R43). -/
theorem legalResponse_status (e : Status) : legalResponse (responseWord e 0#5 0#8) = true := by
  cases e <;> decide

/-- What a character mapper answers is legal, with a key and without (R43). -/
theorem legalResponse_mapper (k : Bool) (ch : CharCode) :
    legalResponse (if k then responseWord .ok 0#5 ch else responseWord .noKey 0#5 0#8) = true := by
  cases k with
  | false => exact legalResponse_status .noKey
  | true => exact legalResponse_char ch

/-- Every command leaves a legal response (R43). -/
theorem exec_response_legal {i : Instr} {s t : State} (h : exec i s = .next t) :
    t.response.all legalResponse = true := by
  cases i with
  | loadkey a b =>
    cases (exec_loadkey_fields_eq a b s).symm.trans h
    split
    case isTrue hg =>
      have hlt := inverseByTable_lt (sext8 (keyOperand a))
      rw [responseWord_ok_inv (by omega)]
      exact legalResponse_inverse (inverseByTable_mem_validA hg)
    case isFalse => exact legalResponse_status .invalidKey
  | enc ch =>
    cases (exec_enc_eq ch s).symm.trans h
    exact legalResponse_mapper _ _
  | dec ch =>
    cases (exec_dec_eq ch s).symm.trans h
    exact legalResponse_mapper _ _

/-- Every step keeps the responses pending and taken legal (R43). -/
theorem step_keeps_legal {s t : State} (hresp : s.response.all legalResponse = true)
    (hobs : s.observed.all legalResponse = true) (h : step s = .next t) :
    t.response.all legalResponse = true ∧ t.observed.all legalResponse = true := by
  obtain ⟨w, rest, i, -, -, -, hs⟩ | ⟨w, rest, e, -, -, -, hs⟩ | ⟨w, rest, r, -, -, hs⟩ | ⟨rest, r, -, hr, hs⟩ |
    ⟨rest, -, -, hs⟩ | ⟨rest, -, hs⟩ | ⟨-, hs⟩ := step_cases s <;> rw [hs] at h
  -- a word that is a command runs
  case inl =>
    obtain ⟨-, hkeep, -, -⟩ := exec_keeps_host h
    exact ⟨exec_response_legal h, hkeep ▸ hobs⟩
  -- a word that is none is answered ILLEGAL_CMD
  case inr.inl =>
    cases h
    exact ⟨legalResponse_status .illegalCmd, hobs⟩
  -- a response is taken
  case inr.inr.inr.inl =>
    cases h
    rw [hr] at hresp
    exact ⟨rfl, by simpa [hobs] using hresp⟩
  -- a reset drops the response
  case inr.inr.inr.inr.inr.inl =>
    cases h
    exact ⟨rfl, hobs⟩
  -- the core waits
  all_goals
    cases h
    exact ⟨hresp, hobs⟩

/-- Every step keeps the key invariant (R18). -/
theorem step_keeps_keyInv {s t : State} (hinv : s.KeyInv) (h : step s = .next t) : t.KeyInv := by
  intro hk
  obtain ⟨ha, -, hi, hkv⟩ | ⟨-, hkv⟩ | ⟨w, a, b, -, -, hgcd, -, ha, -, hone, hlt⟩ := step_key_cases h
  · rw [ha, hi]
    exact hinv (hkv ▸ hk)
  · exact Bool.noConfusion (hkv.symm.trans hk)
  · rw [ha]
    exact ⟨hgcd, hlt, hone⟩

/-! ### The obligations -/

/-- Settles O36, by induction on the number of steps over `EqualButUnheld`. -/
theorem unspecifiedRegistersNeverShow : Obligations.UnspecifiedRegistersNeverShow := by
  intro n s x y z hk
  obtain ⟨t, t', ht, ht', hrel⟩ := runSteps_keeps_equalButUnheld n (.inr ⟨hk, x, y, z, rfl⟩)
  exact ⟨t, t', ht, ht', hrel.visible⟩

/-- Settles O41: the key and the responses keep their parts of the invariant apart from each other. -/
theorem everyStepKeepsTheInvariant : Obligations.EveryStepKeepsTheInvariant := by
  rintro s t ⟨hkey, hresp, hobs⟩ h
  exact ⟨step_keeps_keyInv hkey h, step_keeps_legal hresp hobs h⟩

/-- Settles O40: reset holds no key, no response and an empty record. -/
theorem resetStateMeetsTheInvariant : Obligations.ResetStateMeetsTheInvariant :=
  ⟨rfl, rfl, fun hk => Bool.noConfusion hk, rfl, rfl⟩

/-- Settles O38: of the three things a step can do to the key, the reset is excluded. -/
theorem keyRegistersChangeOnlyByLoadkeyOrReset : Obligations.KeyRegistersChangeOnlyByLoadkeyOrReset := by
  intro s t h hreset
  obtain ⟨ha, hb, hi, -⟩ | ⟨hn, -⟩ | ⟨w, a, b, hn, hd, hgcd, -, hkey⟩ := step_key_cases h
  · exact .inl ⟨ha, hb, hi⟩
  · exact absurd hn hreset
  · exact .inr ⟨w, a, b, hn, hd, hgcd, hkey⟩

/-- Settles O37: a change has its cause by `step_key_cases`, and each cause its effect by its own step. -/
theorem keyValidChangesOnlyByLoadkeyAndReset : Obligations.KeyValidChangesOnlyByLoadkeyAndReset := by
  intro s t h
  refine ⟨fun h0 h1 => ?_, fun h1 h0 => ?_, fun w a b hn hr hd hgcd => ?_, fun hn => ?_⟩
  · obtain ⟨-, -, -, hkv⟩ | ⟨-, hkv⟩ | ⟨w, a, b, hn, hd, hgcd, -⟩ := step_key_cases h
    · cases h0.symm.trans (hkv.symm.trans h1)
    · cases hkv.symm.trans h1
    · exact ⟨w, a, b, hn, hd, hgcd⟩
  · obtain ⟨-, -, -, hkv⟩ | ⟨hn, -⟩ | ⟨w, a, b, -, -, -, hkv, -⟩ := step_key_cases h
    · cases h1.symm.trans (hkv.symm.trans h0)
    · exact hn
    · cases hkv.symm.trans h0
  · obtain ⟨rest, hh⟩ := State.host_of_nextAction hn
    rw [stepRunsThePresentedCommand s w rest _ hh hr hd] at h
    obtain ⟨hkv, -⟩ := exec_loadkey_holdsKeyOf (decode_wellFormed hd) (keychk_eq_true.2 hgcd) h
    exact hkv
  · obtain ⟨rest, hh⟩ := State.host_of_nextAction hn
    cases (step_reset hh).symm.trans h
    rfl

/-- Settles O35, one row of the access table after the other. -/
theorem eachCommandReadsOnlyWhatTheTableSays : Obligations.EachCommandReadsOnlyWhatTheTableSays := by
  intro s s'
  refine ⟨fun a b => exec_loadkey_reads_operands a b s s', fun ch => answerOf_enc_congr ch,
    fun ch => answerOf_dec_congr ch, fun w hw => ?_⟩
  obtain ⟨e, he⟩ := (decode_error_iff w).2 hw
  rw [answerOf_runWord_of_error he, answerOf_runWord_of_error he]

end Sys2Proof.Machine
end

section
/-! Scope: the two ports of the core (R27, R28): a response taken or awaited, one response per command, commands
executed twice, streams of commands, the key an ENC after a LOADKEY uses, and several cores (R106). -/

namespace Sys2Proof.Machine

/-! ### Runs, and one exchange with the core -/

/-- A run in two parts: the second starts where the first ends (R7). -/
theorem runSteps_add {m : Nat} {s t : State} (h : runSteps m s = .next t) (n : Nat) :
    runSteps (m + n) s = runSteps n t := by
  induction m generalizing s with
  | zero =>
    cases h
    rw [Nat.zero_add]
  | succ m ih =>
    obtain ⟨u, hu⟩ := everyStepAnswersANextState s
    rw [Nat.add_right_comm]
    simp only [runSteps, hu] at h ⊢
    exact ih h

/-- One exchange: a word presented and its response taken are two steps, which do to the view what the command-level
machine does to the key, record its response and leave the port empty (R28). -/
theorem runSteps_exchange {s : State} {w : CommandWord} {rest : List HostAction} (hr : s.response = none)
    (hh : s.host = .command w :: .take :: rest) :
    ∃ t, runSteps 2 s = .next t ∧ t.observed = s.observed ++ [(commandStep s.view w).2] ∧
      t.view = (commandStep s.view w).1 ∧ t.response = none ∧ t.host = rest := by
  obtain ⟨t, ht, hview, hresp, hhost, hobs⟩ := portsRefineTheCommandLevelMachine s w _ hh hr
  have hrun : runSteps 2 s = .next (({ t with host := rest } : State).deliver (commandStep s.view w).2) := by
    simp only [runSteps, ht, step_take hhost hresp]
  refine ⟨_, hrun, ?_, hview, rfl, rfl⟩
  rw [State.deliver_observed, hobs]

/-! ### The letter that ENC answers -/

/-- ENC of an upper-case letter under a held key, as a number (R69). -/
theorem exec_enc_upper {s : State} (hk : s.keyValid = true) {p : Nat} (hp : p < 26) :
    exec (.enc (BitVec.ofNat 8 (0x41 + p))) s =
      .next (s.respond (BitVec.ofNat 16 (0x41 + ((s.a.toInt * p + s.b.toInt) % 26).toNat))) := by
  have hch : (BitVec.ofNat 8 (0x41 + p)).toNat = 0x41 + p := by
    rw [BitVec.toNat_ofNat]
    omega
  have hpos : ((0x41 + p : Nat) : Int) - 0x41 = p := by omega
  rw [exec_enc_eq, mapper_response (by simp only [forward_eq]; omega), if_pos hk, hch, mapCode, if_pos (by omega),
    hpos, forward_eq]
  rfl

/-! ### Several cores -/

/-- Every step is total, so it is a function from state to state (R8). -/
theorem exists_stepFunction : ∃ f : State → State, ∀ s, step s = .next (f s) :=
  ⟨_, fun s => (everyStepAnswersANextState s).choose_spec⟩

/-- A step of the core at place `k` changes that place of the list by the step, and no other (R106). -/
theorem stepAt_eq_modify {f : State → State} (hf : ∀ s, step s = .next (f s)) (k : Nat) (cores : List State) :
    stepAt k cores = .next (cores.modify k f) := by
  unfold stepAt
  rw [List.modify_eq_set_getElem?]
  rcases cores[k]? with _ | s
  · rfl
  · simp [hf]

/-! ### The obligations -/

/-- Settles O46, by induction on the words, one exchange each. -/
theorem streamOfCommandsIsAnsweredInOrder : Obligations.StreamOfCommandsIsAnsweredInOrder := by
  intro ws
  induction ws with
  | nil =>
    intro s rest hr hh
    exact ⟨s, rfl, (List.append_nil _).symm, rfl, hr, hh⟩
  | cons w ws ih =>
    intro s rest hr hh
    obtain ⟨t, ht, hobs, hview, hr', hh'⟩ := runSteps_exchange hr hh
    obtain ⟨u, hu, hobs', hview', hr'', hh''⟩ := ih t rest hr' hh'
    rw [hview] at hobs' hview'
    refine ⟨u, ?_, ?_, hview', hr'', hh''⟩
    · rw [List.length_cons, Nat.mul_succ, Nat.add_comm, runSteps_add ht, hu]
    · rw [hobs', hobs, List.append_assoc]
      rfl

/-- Settles O12: a command to come becomes a response pending, and that becomes a response taken; the reset is
excluded, and every other step changes nothing. -/
theorem oneResponsePerCommand : Obligations.OneResponsePerCommand := by
  intro s t h hreset
  obtain ⟨w, rest, i, hh, hr, -, hs⟩ | ⟨w, rest, e, hh, hr, -, hs⟩ | ⟨w, rest, r, -, -, hs⟩ | ⟨rest, r, hh, hr, hs⟩ |
    ⟨rest, -, -, hs⟩ | ⟨rest, hh, -⟩ | ⟨-, hs⟩ := step_cases s
  -- a word that is a command runs
  case inl =>
    obtain ⟨hhost, hobs, -, hresp⟩ := exec_keeps_host (hs.symm.trans h)
    simp +arith [State.exchanges, hh, hr, hhost, hobs, hresp, commandsIn]
  -- a word that is none is answered ILLEGAL_CMD
  case inr.inl =>
    cases hs.symm.trans h
    simp +arith [State.exchanges, hh, hr, commandsIn]
  -- a response is taken
  case inr.inr.inr.inl =>
    cases hs.symm.trans h
    simp [State.exchanges, hh, hr, commandsIn]
  case inr.inr.inr.inr.inr.inl => exact absurd (congrArg List.head? hh) hreset
  -- the core waits
  all_goals
    cases hs.symm.trans h
    rfl

/-- Settles O23: LOADKEY leaves its operands as the held key, and ENC maps the letter under the key held. -/
theorem encAfterLoadkeyUsesItsKey : Obligations.EncAfterLoadkeyUsesItsKey := by
  intro a b s p ha ha' hb hb' hgcd hp
  have hw : (Instr.loadkey a b).WellFormed :=
    (Bool.and_eq_true_iff ..).2 ⟨(fitsKeyField_iff a).2 ⟨ha, ha'⟩, (fitsKeyField_iff b).2 ⟨hb, hb'⟩⟩
  obtain ⟨t, ht⟩ := exec_total (.loadkey a b) s
  obtain ⟨hk, hta, htb, -, -⟩ := exec_loadkey_holdsKeyOf hw (keychk_eq_true.2 hgcd) ht
  refine ⟨t, ht, _, exec_enc_upper hk hp, ?_, hta, htb⟩
  rw [State.respond_response, hta, htb]

/-- Settles O39: what a command reads of the key it finds again after it, and it writes the same response over its
own. -/
theorem repeatedCommandIsIdempotent : Obligations.RepeatedCommandIsIdempotent := by
  intro i s t h
  cases i with
  | loadkey a b =>
    cases (exec_loadkey_fields_eq a b s).symm.trans h
    rw [exec_loadkey_fields_eq]
    split <;> rfl
  | enc ch =>
    cases (exec_enc_eq ch s).symm.trans h
    rw [exec_enc_eq]
    rfl
  | dec ch =>
    cases (exec_dec_eq ch s).symm.trans h
    rw [exec_dec_eq]
    rfl

/-- Settles O47: changes at two places of a list commute, and each leaves the other place alone. -/
theorem severalCoresDoNotInterfere : Obligations.SeveralCoresDoNotInterfere := by
  intro cores j k hjk
  obtain ⟨f, hf⟩ := exists_stepFunction
  have hcomm : (cores.modify j f).modify k f = (cores.modify k f).modify j f := List.modify_modify_ne f f cores hjk
  refine ⟨_, _, _, stepAt_eq_modify hf j cores, stepAt_eq_modify hf k _, stepAt_eq_modify hf k cores, ?_, ?_, ?_⟩
  · rw [stepAt_eq_modify hf, hcomm]
  · exact List.getElem?_modify_ne f cores hjk
  · rw [hcomm]
    exact List.getElem?_modify_ne f _ hjk

/-- Settles O7: it is the step of a command that waits. -/
theorem untakenResponseHoldsBackTheNextCommand : Obligations.UntakenResponseHoldsBackTheNextCommand :=
  fun _ _ _ _ => step_command_waits

/-- Settles O8: it is the step of a take, the record of `deliver` written out. -/
theorem takingAResponseFreesTheCore : Obligations.TakingAResponseFreesTheCore :=
  fun _ _ _ => step_take

end Sys2Proof.Machine
end

section
/-! Scope: the encoding of commands (R38 to R50): encode and decode, fields a command does not use, illegal words, and
the complete set of response words. -/

namespace Sys2Proof.Machine

/-! ### The decoder from the fields of a word -/

/-- OP = 0b01 and RSV = 0 make a LOADKEY (R40, R47). -/
theorem decode_eq_loadkey {w : CommandWord} (ho : opField w = 0b01#2) (hr : rsvField w = 0#6) :
    decode w = .ok (.loadkey (aField w).toInt (bField w).toInt) := by
  simp [decode, ho, hr]

/-- OP = 0b10 and RSV = 0 make an ENC (R47). -/
theorem decode_eq_enc {w : CommandWord} (ho : opField w = 0b10#2) (hr : rsvField w = 0#6) :
    decode w = .ok (.enc (chField w)) := by
  simp [decode, ho, hr]

/-- OP = 0b11 and RSV = 0 make a DEC (R47). -/
theorem decode_eq_dec {w : CommandWord} (ho : opField w = 0b11#2) (hr : rsvField w = 0#6) :
    decode w = .ok (.dec (chField w)) := by
  simp [decode, ho, hr]

/-- A top byte that is a multiple of 0x40 is an OP with RSV = 0 (R39). -/
theorem fields_of_topByte {w : CommandWord} {op : BitVec 2} (h : w.toNat / 0x1000000 = op.toNat * 0x40) :
    opField w = op ∧ rsvField w = 0#6 := by
  have hr := (rsvField w).isLt
  rw [topByte_eq] at h
  constructor <;> apply BitVec.eq_of_toNat_eq
  · omega
  · rw [BitVec.toNat_ofNat]
    omega

/-- CH, built from its number (R39). -/
theorem chField_eq_ofNat (w : CommandWord) : chField w = BitVec.ofNat 8 (w.toNat % 0x100) := by
  rw [← chField_toNat, BitVec.ofNat_toNat, BitVec.setWidth_eq]

/-- OP = 0b00 or a non-zero RSV, as numbers, is a word that is no command (R44). -/
theorem exists_decode_error {w : CommandWord}
    (h : w.toNat / 0x40000000 = 0 ∨ w.toNat / 0x1000000 % 0x40 ≠ 0) : ∃ e, decode w = .error e := by
  rw [← opField_toNat, ← rsvField_toNat] at h
  refine (decode_error_iff w).2 (h.imp (fun ho => BitVec.eq_of_toNat_eq ho) fun hr h0 => ?_)
  rw [h0] at hr
  exact hr rfl

/-! ### The canonical word -/

/-- The canonical word of a LOADKEY has zero in CH, which the command ignores (R45). -/
theorem encode_toNat_of_loadkey {w : CommandWord} {a b : Int} (h : decode w = .ok (.loadkey a b)) :
    (encode (.loadkey a b)).toNat = w.toNat / 0x100 * 0x100 := by
  obtain ⟨htop, -, -⟩ := decode_loadkey_toNat h
  obtain ⟨-, ⟨-, hi⟩ | ⟨-, hi⟩ | ⟨-, hi⟩⟩ := decode_cases h <;> cases hi
  simp only [encode, keyField_toInt, formatK_toNat, aField_toNat, bField_toNat, BitVec.toNat_ofNat]
  omega

/-- The canonical word of an ENC has zero in A and B, which the command ignores (R45). -/
theorem encode_toNat_of_enc {w : CommandWord} {ch : CharCode} (h : decode w = .ok (.enc ch)) :
    (encode (.enc ch)).toNat = w.toNat / 0x1000000 * 0x1000000 + w.toNat % 0x100 := by
  obtain ⟨htop, hch⟩ := decode_enc_toNat h
  rw [encode, formatK_toNat, htop, hch]
  rfl

/-- The canonical word of a DEC has zero in A and B, which the command ignores (R45). -/
theorem encode_toNat_of_dec {w : CommandWord} {ch : CharCode} (h : decode w = .ok (.dec ch)) :
    (encode (.dec ch)).toNat = w.toNat / 0x1000000 * 0x1000000 + w.toNat % 0x100 := by
  obtain ⟨htop, hch⟩ := decode_dec_toNat h
  rw [encode, formatK_toNat, htop, hch]
  rfl

/-! ### What a presented word does -/

/-- A word runs as what it decodes to, so words that decode alike run alike (R47). -/
theorem runWord_congr {w w' : CommandWord} (h : decode w = decode w') (s : State) : runWord w s = runWord w' s := by
  rw [runWord, runWord, h]

/-- A word that is no command is answered ILLEGAL_CMD, whatever the state (R44). -/
theorem runWord_of_error {w : CommandWord} {e : DecodeError} (h : decode w = .error e) (s : State) :
    runWord w s = .next (s.respond (responseWord .illegalCmd 0#5 0#8)) := by
  rw [runWord, h]
  rfl

/-- Every word is answered, with a legal response (R28, R43). -/
theorem runWord_answers_legal (w : CommandWord) (s : State) :
    ∃ t r, runWord w s = .next t ∧ t.response = some r ∧ legalResponse r = true := by
  rcases hd : decode w with e | i
  · exact ⟨_, _, runWord_of_error hd s, rfl, legalResponse_status .illegalCmd⟩
  · obtain ⟨t, ht⟩ := exec_total i s
    obtain ⟨-, -, -, hsome⟩ := exec_keeps_host ht
    obtain ⟨r, hr⟩ := Option.isSome_iff_exists.1 hsome
    have hlegal := exec_response_legal ht
    rw [hr] at hlegal
    exact ⟨t, r, by rw [runWord, hd]; exact ht, hr, hlegal⟩

/-- The members of the complete set of response words (R43). -/
theorem legalResponse_cases {r : ResponseWord} (h : legalResponse r = true) :
    (∃ i ∈ validA, r.toNat = 0x100 * i) ∨ r = 0x4000#16 ∨ r.toNat < 0x100 ∨ r = 0x8000#16 ∨ r = 0xC000#16 := by
  have hlt : ∀ i ∈ validA, i < 26 := by decide
  simp only [legalResponse, Bool.or_eq_true, decide_eq_true_eq, List.any_eq_true, beq_iff_eq] at h
  obtain (((hchar | ⟨i, hi, rfl⟩) | hkey) | hnokey) | hillegal := h
  · exact .inr (.inr (.inl hchar))
  · have := hlt i hi
    exact .inl ⟨i, hi, by rw [BitVec.toNat_ofNat]; omega⟩
  · exact .inr (.inl hkey)
  · exact .inr (.inr (.inr (.inl hnokey)))
  · exact .inr (.inr (.inr (.inr hillegal)))

/-! ### The obligations -/

/-- Settles O2: the fields of the canonical word are those it was put together from, and a key operand that fits its
field is read back from it. -/
theorem decodeOfEncodeIsTheCommand : Obligations.DecodeOfEncodeIsTheCommand := by
  intro i hw
  cases i with
  | loadkey a b =>
    obtain ⟨ha, hb⟩ := (Bool.and_eq_true_iff ..).1 hw
    obtain ⟨hop, hrsv, hfa, hfb, -⟩ := fields_formatK 0b01#2 (keyField a) (keyField b) 0#8
    rw [encode, decode_eq_loadkey hop hrsv, hfa, hfb, toInt_keyField a ha, toInt_keyField b hb]
  | enc ch =>
    obtain ⟨hop, hrsv, -, -, hch⟩ := fields_formatK 0b10#2 0#8 0#8 ch
    rw [encode, decode_eq_enc hop hrsv, hch]
  | dec ch =>
    obtain ⟨hop, hrsv, -, -, hch⟩ := fields_formatK 0b11#2 0#8 0#8 ch
    rw [encode, decode_eq_dec hop hrsv, hch]

/-- Settles O3: a top byte of a row is that row's OP with RSV = 0, and a word that decodes to a command has one. -/
theorem topByteDecidesTheCommand : Obligations.TopByteDecidesTheCommand := by
  intro w
  refine ⟨fun h => ?_, fun h => ?_, fun h => ?_, fun ⟨hload, henc, hdec⟩ => ?_⟩
  · obtain ⟨hop, hrsv⟩ := fields_of_topByte (op := 0b01#2) h
    rw [decode_eq_loadkey hop hrsv, ← aField_toNat, ← bField_toNat, signedByte_toNat, signedByte_toNat]
  · obtain ⟨hop, hrsv⟩ := fields_of_topByte (op := 0b10#2) h
    rw [decode_eq_enc hop hrsv, chField_eq_ofNat]
  · obtain ⟨hop, hrsv⟩ := fields_of_topByte (op := 0b11#2) h
    rw [decode_eq_dec hop hrsv, chField_eq_ofNat]
  · rcases hd : decode w with e | ⟨a, b⟩ | ch | ch
    · exact ⟨e, rfl⟩
    · exact absurd (decode_loadkey_toNat hd).1 hload
    · exact absurd (decode_enc_toNat hd).1 henc
    · exact absurd (decode_dec_toNat hd).1 hdec

/-- Settles O4: the canonical word decodes to the same command by O2, and a step sees only what a word decodes to. -/
theorem ignoredFieldsChangeNothing : Obligations.IgnoredFieldsChangeNothing := by
  intro w i h
  have hback : decode (encode i) = .ok i := decodeOfEncodeIsTheCommand i (decode_wellFormed h)
  refine ⟨decode_wellFormed h, ?_, hback, fun s rest hr => ?_⟩
  · cases i with
    | loadkey a b => exact encode_toNat_of_loadkey h
    | enc ch => exact encode_toNat_of_enc h
    | dec ch => exact encode_toNat_of_dec h
  · have hstep (v : CommandWord) : step { s with host := .command v :: rest } = runWord v { s with host := rest } :=
      step_command (s := { s with host := .command v :: rest }) rfl hr
    rw [hstep, hstep, runWord_congr (h.trans hback.symm)]

/-- Settles O6: such a word is no command, and the answer to one is the response word 0xC000. -/
theorem illegalWordAnswersIllegalCmd : Obligations.IllegalWordAnswersIllegalCmd := by
  intro s w rest hh hr hill
  obtain ⟨e, he⟩ := exists_decode_error hill
  rw [step_command hh hr, runWord_of_error he]
  rfl

/-- Settles O15: the step runs the word, and every word is answered with a legal response. -/
theorem everyResponseIsInTheCompleteSet : Obligations.EveryResponseIsInTheCompleteSet := by
  intro s w rest hh hr
  obtain ⟨t, r, ht, hresp, hlegal⟩ := runWord_answers_legal w { s with host := rest }
  exact ⟨t, r, (step_command hh hr).trans ht, hresp, legalResponse_cases hlegal⟩

/-- Settles O1: eleven fixed words, each evaluated. -/
theorem workedEncodingsDecode : Obligations.WorkedEncodingsDecode := by
  unfold Obligations.WorkedEncodingsDecode
  decide

end Sys2Proof.Machine
end

section
/-! Scope: LOADKEY with its gate and its search (R52 to R64): the three tests of the gate, the smallest inverse, the
count of search tests, and LOADKEY on both sides of the gate with its frame. -/

namespace Sys2Proof.Machine

/-! ### The gate -/

/-- The gate is membership of the residue in VALID_A (R52, R53). -/
theorem keychk_iff_mem_validA (a : Int) : keychk a = true ↔ (a % 26).toNat ∈ validA := by
  have h := of_residues (P := fun r => keychk r = true ↔ r.toNat ∈ validA) (by decide) a
  rwa [keychk_emod] at h

/-- The members of VALID_A are residues (R53). -/
theorem lt_of_mem_validA : ∀ r ∈ validA, r < 26 := by decide

/-- The mask of VALID_A has no bit from 26 on (R53). -/
theorem lt_of_testBit_validAMask {r : Nat} (h : validAMask.toNat.testBit r = true) : r < 26 :=
  BitVec.lt_of_getLsbD h

/-- VALID_A is the set of residues coprime with 26 (R53). -/
theorem mem_validA_iff_coprime (r : Nat) : r ∈ validA ↔ r < 26 ∧ Nat.gcd r 26 = 1 := by
  have hres : ∀ r < 26, r ∈ validA ↔ Nat.gcd r 26 = 1 := by decide
  exact ⟨fun h => ⟨lt_of_mem_validA r h, (hres r (lt_of_mem_validA r h)).1 h⟩, fun ⟨hlt, h⟩ => (hres r hlt).2 h⟩

/-- VALID_A is the set of bits of its mask (R53). -/
theorem mem_validA_iff_testBit (r : Nat) : r ∈ validA ↔ validAMask.toNat.testBit r = true := by
  have hres : ∀ r < 26, r ∈ validA ↔ validAMask.toNat.testBit r = true := by decide
  exact ⟨fun h => (hres r (lt_of_mem_validA r h)).1 h, fun h => (hres r (lt_of_testBit_validAMask h)).2 h⟩

/-! ### The search -/

/-- An integer with an inverse passes the gate (R52, R56). -/
theorem keychk_of_mul_emod_eq_one {a i : Int} (h : a * i % 26 = 1) : keychk a = true := by
  have hdiv := Int.emod_add_mul_ediv (a * i) 26
  exact keychk_eq_true.2 (Int.isCoprime_iff_gcd_eq_one.1 ⟨i, -(a * i / 26), by linarith⟩)

/-- Inverses of one integer have one residue (R56). -/
theorem emod_eq_of_inverses {a i j : Int} (hi : a * i % 26 = 1) (hj : a * j % 26 = 1) : i % 26 = j % 26 :=
  calc i % 26 = a * j * i % 26 := by rw [Int.mul_emod, hj, one_mul, Int.emod_emod]
    _ = a * i * j % 26 := by rw [mul_right_comm]
    _ = j % 26 := by rw [Int.mul_emod, hi, one_mul, Int.emod_emod]

/-- MODINV answers `i` exactly when `i` is the smallest inverse in 0..25 (R54). -/
theorem modinv26_eq_some_iff (a : Int) (i : Nat) :
    modinv26 a = some i ↔ i < 26 ∧ (a * i) % 26 = 1 ∧ ∀ j : Nat, j < i → (a * j) % 26 ≠ 1 := by
  simp only [← floorMod_eq_emod]
  constructor
  · intro h
    obtain ⟨-, hlt, hone, hmin⟩ := modinvSearch_some h
    exact ⟨by omega, hone, fun j => hmin j (Nat.zero_le j)⟩
  · rintro ⟨hlt, hone, hmin⟩
    rcases hs : modinv26 a with _ | k
    · exact absurd hone (modinvSearch_none hs i (Nat.zero_le i) (by omega))
    · obtain ⟨-, -, hkone, hkmin⟩ := modinvSearch_some hs
      have hik : ¬i < k := fun h => hkmin i (Nat.zero_le i) h hone
      have hki : ¬k < i := fun h => hmin k h hkone
      exact congrArg some (by omega)

/-- MODINV answers `none` exactly when no index in 0..25 is an inverse (R54). -/
theorem modinv26_eq_none_iff (a : Int) : modinv26 a = none ↔ ∀ j : Nat, j < 26 → (a * j) % 26 ≠ 1 := by
  constructor
  · intro h j hj
    rw [← floorMod_eq_emod]
    exact modinvSearch_none h j (Nat.zero_le j) (by omega)
  · intro h
    rcases hs : modinv26 a with _ | k
    · rfl
    · obtain ⟨hlt, hone, -⟩ := (modinv26_eq_some_iff a k).1 hs
      exact absurd hone (h k hlt)

/-- The search finds the second entry of each row of the table for its first (R56). -/
theorem modinv26_of_mem_inverseTable : ∀ row ∈ inverseTable, modinv26 (row.1 : Nat) = some row.2 := by decide

/-! ### The count of search tests -/

/-- A loop that starts at `i` and finds `k` has evaluated its test at `i`, ..., `k` (R55, R121). -/
theorem searchTests_add_of_modinvSearch {a : Int} {fuel i k : Nat} (h : modinvSearch a fuel i = some k) :
    i + searchTests a fuel i = k + 1 := by
  induction fuel generalizing i with
  | zero => cases h
  | succ n ih =>
    unfold modinvSearch at h
    unfold searchTests
    split at h
    case isTrue hone =>
      cases h
      rw [if_pos hone]
    case isFalse hone =>
      have hrest := ih h
      rw [if_neg hone]
      omega

/-- The count in one equation: one more than the inverse of the table under the gate, else none (R121). -/
theorem loadkeyTests_eq (a : Int) : loadkeyTests a = if keychk a then inverseByTable a + 1 else 0 := by
  unfold loadkeyTests
  split
  case isTrue hg => rw [← searchTests_add_of_modinvSearch (modinv26_eq_inverseByTable hg), Nat.zero_add]
  case isFalse => rfl

/-- The count sees the residue of `a` only (R121). -/
theorem loadkeyTests_emod (a : Int) : loadkeyTests (a % 26) = loadkeyTests a := by
  rw [loadkeyTests_eq, loadkeyTests_eq, keychk_emod, inverseByTable_emod]

/-! ### LOADKEY on both sides of the gate -/

/-- Operands within the bounds of their fields make a LOADKEY that can be encoded (R40, R48). -/
theorem loadkey_wellFormed {a b : Int} (ha : -128 ≤ a ∧ a ≤ 127) (hb : -128 ≤ b ∧ b ≤ 127) :
    (Instr.loadkey a b).WellFormed :=
  (Bool.and_eq_true_iff ..).2 ⟨(fitsKeyField_iff a).2 ha, (fitsKeyField_iff b).2 hb⟩

/-- The word of a LOADKEY as the spec writes it, with any CH, is put together from the fields of its operands (R39,
R48). -/
theorem ofNat_eq_formatK_loadkey (a b : Int) {ch : Nat} (hch : ch < 0x100) :
    BitVec.ofNat 32 (0x40000000 + (a % 256).toNat * 0x10000 + (b % 256).toNat * 0x100 + ch) =
      formatK 0b01#2 (keyField a) (keyField b) (BitVec.ofNat 8 ch) := by
  have ha : (keyField a).toNat = (a % 256).toNat := BitVec.toNat_ofInt a
  have hb : (keyField b).toNat = (b % 256).toNat := BitVec.toNat_ofInt b
  apply BitVec.eq_of_toNat_eq
  rw [formatK_toNat, ha, hb]
  simp only [BitVec.toNat_ofNat]
  omega

/-- A LOADKEY word with any CH decodes to the command with its operands (R45, R47). -/
theorem decode_formatK_loadkey {a b : Int} (hw : (Instr.loadkey a b).WellFormed) (ch : CharCode) :
    decode (formatK 0b01#2 (keyField a) (keyField b) ch) = .ok (.loadkey a b) := by
  obtain ⟨ha, hb⟩ := (Bool.and_eq_true_iff ..).1 hw
  obtain ⟨hop, hrsv, hfa, hfb, -⟩ := fields_formatK 0b01#2 (keyField a) (keyField b) ch
  rw [decode_eq_loadkey hop hrsv, hfa, hfb, toInt_keyField a ha, toInt_keyField b hb]

/-- A passing LOADKEY answers the inverse it leaves in INV_A (R58). -/
theorem exec_loadkey_answers_invA {a b : Int} {s t : State} (ha : fitsKeyField a = true) (hg : keychk a = true)
    (h : exec (.loadkey a b) s = .next t) : t.response = some (BitVec.ofNat 16 (0x100 * t.invA.toNat)) := by
  rw [exec_loadkey_eq ha, if_pos hg] at h
  cases h
  rw [State.respond_response, State.respond_invA, State.writeKey_invA, toNat_ofNat_inverseByTable]

/-- A failing LOADKEY answers INVALID_KEY and changes nothing else (R58, R59). -/
theorem exec_loadkey_of_failing {a : Int} (ha : fitsKeyField a = true) (hg : Int.gcd a 26 ≠ 1) (b : Int) (s : State) :
    exec (.loadkey a b) s = .next (s.respond 0x4000#16) := by
  rw [exec_loadkey_eq ha, if_neg (mt keychk_eq_true.1 hg)]

/-- The status of LOADKEY's response: OK under the gate, INVALID_KEY without it (R42, R63). -/
theorem exec_loadkey_status {a : Int} (ha : fitsKeyField a = true) (b : Int) (s : State) :
    (answerOf (exec (.loadkey a b) s)).map (fun r => r.toNat / 0x4000) = some (if keychk a then 0 else 1) := by
  have hlt := inverseByTable_lt a
  rw [exec_loadkey_eq ha]
  split
  case isTrue =>
    show some ((BitVec.ofNat 16 (0x100 * inverseByTable a)).toNat / 0x4000) = some 0
    rw [BitVec.toNat_ofNat, Option.some_inj]
    omega
  case isFalse => rfl

/-! ### The obligations -/

/-- Settles O16: the word is put together from the operands' fields; a passing LOADKEY leaves its key held and answers
its inverse, and a failing one only answers. -/
theorem loadkeyFollowsItsPseudocode : Obligations.LoadkeyFollowsItsPseudocode := by
  intro a b s ha ha' hb hb'
  have hw := loadkey_wellFormed ⟨ha, ha'⟩ ⟨hb, hb'⟩
  have hfa := (fitsKeyField_iff a).2 ⟨ha, ha'⟩
  refine ⟨fun ch hch => ?_, fun hgcd => ?_, fun hgcd => exec_loadkey_of_failing hfa hgcd b s⟩
  · rw [ofNat_eq_formatK_loadkey a b hch, decode_formatK_loadkey hw]
  · have hg := keychk_eq_true.2 hgcd
    obtain ⟨t, ht⟩ := exec_total (.loadkey a b) s
    obtain ⟨hk, hta, htb, hone, hlt⟩ := exec_loadkey_holdsKeyOf hw hg ht
    obtain ⟨hhost, hobs, hcount, -⟩ := exec_keeps_host ht
    exact ⟨t, ht, hta, htb, hk, hlt, hone, exec_loadkey_answers_invA hfa hg ht, hhost, hobs, hcount⟩

/-- Settles O17: the gate gives the status, and on each of the 26 residues it is membership in VALID_A. -/
theorem constructionSucceedsExactlyForValidResidues : Obligations.ConstructionSucceedsExactlyForValidResidues := by
  intro a b s ha ha'
  have hres := of_residues
    (P := fun r => keychk r = true ↔ r ∈ [1, 3, 5, 7, 9, 11, 15, 17, 19, 21, 23, 25]) (by decide) a
  rw [keychk_emod] at hres
  simp only [exec_loadkey_status ((fitsKeyField_iff a).2 ⟨ha, ha'⟩), hres]

/-- Settles O18: the failing LOADKEY writes the response alone, and ENC and DEC read the key alone. -/
theorem failingLoadkeyChangesNothing : Obligations.FailingLoadkeyChangesNothing := by
  intro a b s ha ha' hgcd
  refine ⟨_, exec_loadkey_of_failing ((fitsKeyField_iff a).2 ⟨ha, ha'⟩) hgcd b s, rfl, rfl, rfl, rfl, rfl, fun ch => ?_⟩
  exact ⟨answerOf_enc_congr ch rfl fun _ => ⟨rfl, rfl⟩, answerOf_dec_congr ch rfl fun _ => ⟨rfl, rfl⟩⟩

/-- Settles O19 from the three forms of the gate and the two of VALID_A. -/
theorem gateHasThreeEqualTests : Obligations.GateHasThreeEqualTests :=
  ⟨fun a => ⟨keychk_eq_true, keychk_iff_odd_and_not_thirteen a, keychk_iff_mem_validA a⟩,
    fun r => ⟨mem_validA_iff_coprime r, mem_validA_iff_testBit r⟩⟩

/-- Settles O20: what the loop found is the first index that passes, and a loop that found nothing has tested all. -/
theorem modinvIsTheSmallestInverse : Obligations.ModinvIsTheSmallestInverse :=
  fun a => ⟨modinv26_eq_some_iff a, modinv26_eq_none_iff a⟩

/-- Settles O21: under the gate the search finds the inverse of the table, two inverses have one residue, and an
integer with an inverse passes the gate. -/
theorem searchSucceedsExactlyUnderTheGate : Obligations.SearchSucceedsExactlyUnderTheGate := by
  intro a
  refine ⟨fun hg => ?_, fun hg => ?_, (modinv26_emod a).symm, fun r i hrow hr => ?_⟩
  · have hone := mul_inverseByTable_emod hg
    have hlt := inverseByTable_lt a
    refine ⟨inverseByTable a, modinv26_eq_inverseByTable hg, hone, fun j hj hjone => ?_⟩
    have hres := emod_eq_of_inverses hjone hone
    omega
  · rw [modinv26_eq_none_iff]
    intro j _ hone
    exact Bool.false_ne_true (hg.symm.trans (keychk_of_mul_emod_eq_one hone))
  · rw [← modinv26_emod, hr]
    exact modinv26_of_mem_inverseTable (r, i) hrow

/-- Settles O22: the count is one more than the inverse found under the gate, and sees the residue of `a` only. -/
theorem searchTestCount : Obligations.SearchTestCount := by
  intro a
  have hlt := inverseByTable_lt a
  have hres {r : Int} {n : Nat} (hn : loadkeyTests r = n) (hr : a % 26 = r) : loadkeyTests a = n := by
    rw [← loadkeyTests_emod, hr, hn]
  refine ⟨fun i hg hi => ?_, fun hg => ?_, ?_, hres (by decide), hres (by decide), hres (by decide)⟩
  · rw [loadkeyTests_eq, if_pos hg, Option.some.inj ((modinv26_eq_inverseByTable hg).symm.trans hi)]
  · simp [loadkeyTests_eq, hg]
  · rw [loadkeyTests_eq]
    split <;> omega

/-- Settles O24: under the gate the operands' fields, an inverse and KEY_VALID are written; without it the response
alone. -/
theorem loadkeyFrame : Obligations.LoadkeyFrame := by
  intro a b s t h
  obtain ⟨hhost, hobs, hcount, -⟩ := exec_keeps_host h
  refine ⟨hhost, hobs, hcount, ?_⟩
  rw [exec_loadkey_fields_eq] at h
  split at h <;> cases h
  case isTrue hg =>
    refine .inr ⟨rfl, rfl, ?_, rfl⟩
    rw [State.respond_invA, State.writeKey_invA, toNat_ofNat_inverseByTable]
    exact mul_inverseByTable_emod hg
  case isFalse => exact .inl ⟨rfl, rfl, rfl, rfl⟩

end Sys2Proof.Machine
end

section
/-! Scope: the character mapper (R67 to R77): ENC and DEC on every character with a key and without, the codes that are
no letter, the case and position of a letter, and what both leave unchanged. -/

namespace Sys2Proof.Machine

/-! ### The words of ENC and DEC -/

/-- A word whose numbers fit their fields is put together from them (R39). -/
theorem ofNat_eq_formatK (op : BitVec 2) {x y : Nat} (hx : x < 0x100) (hy : y < 0x100) (ch : CharCode) :
    BitVec.ofNat 32 (op.toNat * 0x40000000 + x * 0x10000 + y * 0x100 + ch.toNat) =
      formatK op (BitVec.ofNat 8 x) (BitVec.ofNat 8 y) ch := by
  apply BitVec.eq_of_toNat_eq
  rw [formatK_toNat]
  simp only [BitVec.toNat_ofNat]
  omega

/-- An ENC word with any A and B decodes to the command with its character (R45, R47). -/
theorem decode_formatK_enc (a b : KeyByte) (ch : CharCode) : decode (formatK 0b10#2 a b ch) = .ok (.enc ch) := by
  obtain ⟨hop, hrsv, -, -, hch⟩ := fields_formatK 0b10#2 a b ch
  rw [decode_eq_enc hop hrsv, hch]

/-- A DEC word with any A and B decodes to the command with its character (R45, R47). -/
theorem decode_formatK_dec (a b : KeyByte) (ch : CharCode) : decode (formatK 0b11#2 a b ch) = .ok (.dec ch) := by
  obtain ⟨hop, hrsv, -, -, hch⟩ := fields_formatK 0b11#2 a b ch
  rw [decode_eq_dec hop hrsv, hch]

/-! ### A map of positions on the three kinds of code -/

theorem mapCode_upper (f : Int → Int) {p : Nat} (hp : p < 26) : mapCode f (0x41 + p) = 0x41 + (f p).toNat := by
  have hpos : ((0x41 + p : Nat) : Int) - 0x41 = p := by omega
  rw [mapCode, if_pos (by omega), hpos]

theorem mapCode_lower (f : Int → Int) {p : Nat} (hp : p < 26) : mapCode f (0x61 + p) = 0x61 + (f p).toNat := by
  have hpos : ((0x61 + p : Nat) : Int) - 0x61 = p := by omega
  rw [mapCode, if_neg (by omega), if_pos (by omega), hpos]

theorem mapCode_other (f : Int → Int) {n : Nat} (hu : ¬(0x41 ≤ n ∧ n ≤ 0x5A)) (hl : ¬(0x61 ≤ n ∧ n ≤ 0x7A)) :
    mapCode f n = n := by
  rw [mapCode, if_neg hu, if_neg hl]

/-- A map of positions that stays in 0..25 takes both letters at a position to the letters of their case at one position
(R73). -/
theorem mapCode_keeps_case {f : Int → Int} (hf : ∀ p, 0 ≤ f p ∧ f p < 26) {p : Nat} (hp : p < 26) :
    ∃ c : Nat, c < 26 ∧ mapCode f (BitVec.ofNat 8 (0x41 + p) : CharCode).toNat = 0x41 + c ∧
      mapCode f (BitVec.ofNat 8 (0x61 + p) : CharCode).toNat = 0x61 + c := by
  have hrange := hf p
  refine ⟨(f p).toNat, by omega, ?_, ?_⟩
  · rw [BitVec.toNat_ofNat, Nat.mod_eq_of_lt (by omega), mapCode_upper f hp]
  · rw [BitVec.toNat_ofNat, Nat.mod_eq_of_lt (by omega), mapCode_lower f hp]

/-! ### ENC and DEC with a key and without -/

/-- ENC under a held key answers the code mapped forward (R69). -/
theorem exec_enc_held {s : State} (hk : s.keyValid = true) (ch : CharCode) :
    exec (.enc ch) s =
      .next (s.respond (BitVec.ofNat 16 (mapCode (fun p => (s.a.toInt * p + s.b.toInt) % 26) ch.toNat))) := by
  rw [exec_enc_eq, mapper_response (by simp only [forward_eq]; omega), if_pos hk, forward_eq]
  rfl

/-- DEC under a held key answers the code mapped backward (R71). -/
theorem exec_dec_held {s : State} (hk : s.keyValid = true) (ch : CharCode) :
    exec (.dec ch) s =
      .next (s.respond (BitVec.ofNat 16 (mapCode (fun c => (s.invA.toNat * (c - s.b.toInt)) % 26) ch.toNat))) := by
  rw [exec_dec_eq, mapper_response (by simp only [backward_eq]; omega), if_pos hk, backward_eq]
  rfl

/-- Without a key ENC answers NO_KEY, whatever the character (R69, R94). -/
theorem exec_enc_unheld {s : State} (hk : s.keyValid = false) (ch : CharCode) :
    exec (.enc ch) s = .next (s.respond 0x8000#16) := by
  rw [exec_enc_eq, hk]
  rfl

/-- Without a key DEC answers NO_KEY, whatever the character (R71, R94). -/
theorem exec_dec_unheld {s : State} (hk : s.keyValid = false) (ch : CharCode) :
    exec (.dec ch) s = .next (s.respond 0x8000#16) := by
  rw [exec_dec_eq, hk]
  rfl

/-- The response that is the number of a character has a zero byte above CH (R42). -/
theorem ofNat_toNat_eq_append (ch : CharCode) : BitVec.ofNat 16 ch.toNat = 0#8 ++ ch := by
  have h := ch.isLt
  apply BitVec.eq_of_toNat_eq
  rw [append_toNat]
  simp only [BitVec.toNat_ofNat]
  omega

/-! ### The obligations -/

/-- Settles O25: the word is put together from its fields, and ENC maps the code of each kind of character. -/
theorem encFollowsItsPseudocode : Obligations.EncFollowsItsPseudocode := by
  intro ch s
  refine ⟨fun x y hx hy => ?_, fun hk => exec_enc_unheld hk ch, fun hk => ?_⟩
  · exact (congrArg decode (ofNat_eq_formatK 0b10#2 hx hy ch)).trans (decode_formatK_enc _ _ ch)
  · rw [exec_enc_held hk]
    refine ⟨fun p hp h => ?_, fun p hp h => ?_, fun hu hl => ?_⟩
    · rw [h, mapCode_upper _ hp]
      rfl
    · rw [h, mapCode_lower _ hp]
      rfl
    · rw [mapCode_other _ hu hl]
      rfl

/-- Settles O26: the word is put together from its fields, and DEC maps the code of each kind of character. -/
theorem decFollowsItsPseudocode : Obligations.DecFollowsItsPseudocode := by
  intro ch s
  refine ⟨fun x y hx hy => ?_, fun hk => exec_dec_unheld hk ch, fun hk => ?_⟩
  · exact (congrArg decode (ofNat_eq_formatK 0b11#2 hx hy ch)).trans (decode_formatK_dec _ _ ch)
  · rw [exec_dec_held hk]
    refine ⟨fun c hc h => ?_, fun c hc h => ?_, fun hu hl => ?_⟩
    · rw [h, mapCode_upper _ hc]
      rfl
    · rw [h, mapCode_lower _ hc]
      rfl
    · rw [mapCode_other _ hu hl]
      rfl

/-- Settles O27: a command other than LOADKEY keeps the key, every command keeps what is the host's, and a command
repeated answers the same state. -/
theorem mappersWriteNoState : Obligations.MappersWriteNoState := by
  intro ch i s t hi h
  obtain ⟨ha, hb, hinv, hk⟩ | ⟨a, b, rfl, -⟩ := exec_sameKey_or_loadkey h
  · obtain ⟨hhost, hobs, hcount, -⟩ := exec_keeps_host h
    exact ⟨ha, hb, hinv, hk, hhost, hobs, hcount, repeatedCommandIsIdempotent i s t h⟩
  · obtain hi | hi := hi <;> cases hi

/-- Settles O28: no map of positions moves a code that is no letter, and without a key the code is not looked at. -/
theorem otherCodesPassThrough : Obligations.OtherCodesPassThrough := by
  intro ch s hother
  have hfix (f : Int → Int) : BitVec.ofNat 16 (mapCode f ch.toNat) = 0#8 ++ ch := by
    rw [mapCode_other f (by omega) (by omega), ofNat_toNat_eq_append]
  refine ⟨fun hk => ?_, fun hk => ?_⟩
  · rw [exec_enc_held hk, exec_dec_held hk, hfix, hfix]
    exact ⟨rfl, rfl⟩
  · rw [exec_enc_unheld hk, exec_dec_unheld hk]
    exact ⟨rfl, rfl⟩

/-- Settles O29: the forward and the backward map end in a `% 26`, so each keeps the case of a letter. -/
theorem caseAndRangeAreKept : Obligations.CaseAndRangeAreKept := by
  intro s p hk hp
  constructor
  · obtain ⟨c, hc, hu, hl⟩ := mapCode_keeps_case (f := fun p => (s.a.toInt * p + s.b.toInt) % 26) (by omega) hp
    rw [exec_enc_held hk, exec_enc_held hk, hu, hl]
    exact ⟨c, hc, rfl, rfl⟩
  · obtain ⟨c, hc, hu, hl⟩ := mapCode_keeps_case (f := fun c => (s.invA.toNat * (c - s.b.toInt)) % 26) (by omega) hp
    rw [exec_dec_held hk, exec_dec_held hk, hu, hl]
    exact ⟨c, hc, rfl, rfl⟩

end Sys2Proof.Machine
end

section
/-! Scope: the laws of the map of characters (R83 to R88) and of texts (R78 to R84): round trips, what a key's residues
decide, and ENCRYPT and DECRYPT run on the core. -/

namespace Sys2Proof.Machine

/-! ### The map of positions and its inverse -/

/-- The backward map undoes the forward map of its key (R83). -/
theorem backward_forward {a i : Int} (h : a * i % 26 = 1) (b : Int) {p : Nat} (hp : p < 26) :
    backward i b (forward a b p) = p := by
  have hone : a * i ≡ 1 [ZMOD 26] := h
  have hmod : i * ((a * p + b) % 26 - b) ≡ p [ZMOD 26] :=
    calc i * ((a * p + b) % 26 - b) ≡ i * (a * p + b - b) [ZMOD 26] := ((Int.mod_modEq _ 26).sub_right b).mul_left i
      _ = a * i * p := by ring
      _ ≡ 1 * p [ZMOD 26] := Int.ModEq.mul_right _ hone
      _ = p := one_mul _
  rw [forward_eq, backward_eq]
  exact Eq.trans hmod (Int.emod_eq_of_lt (by omega) (by omega))

/-- The forward map undoes the backward map of its key (R83). -/
theorem forward_backward {a i : Int} (h : a * i % 26 = 1) (b : Int) {c : Nat} (hc : c < 26) :
    forward a b (backward i b c) = c := by
  have hone : a * i ≡ 1 [ZMOD 26] := h
  have hmod : a * (i * (c - b) % 26) + b ≡ c [ZMOD 26] :=
    calc a * (i * (c - b) % 26) + b ≡ a * (i * (c - b)) + b [ZMOD 26] := ((Int.mod_modEq _ 26).mul_left a).add_right b
      _ = a * i * (c - b) + b := by ring
      _ ≡ 1 * (c - b) + b [ZMOD 26] := (Int.ModEq.mul_right _ hone).add_right b
      _ = c := by ring
  rw [forward_eq, backward_eq]
  exact Eq.trans hmod (Int.emod_eq_of_lt (by omega) (by omega))

/-- The forward map stays in 0..25 (R66, R69). -/
theorem forward_range (a b p : Int) : 0 ≤ forward a b p ∧ forward a b p < 26 := by
  simp only [forward_eq]
  omega

/-- The backward map stays in 0..25 (R66, R71). -/
theorem backward_range (i b c : Int) : 0 ≤ backward i b c ∧ backward i b c < 26 := by
  simp only [backward_eq]
  omega

/-- The forward map sees the residues of the key only (R88). -/
theorem forward_congr {a a' b b' : Int} (ha : a % 26 = a' % 26) (hb : b % 26 = b' % 26) :
    forward a b = forward a' b' := by
  rw [forward_eq, forward_eq]
  exact funext fun p => (Int.ModEq.mul_right p ha).add hb

/-- The backward map sees the residue of B only (R88). -/
theorem backward_congr (i : Int) {b b' : Int} (hb : b % 26 = b' % 26) : backward i b = backward i b' := by
  rw [backward_eq, backward_eq]
  exact funext fun c => (Int.ModEq.sub_left c hb).mul_left i

/-- The residues 1 and 0 map every position to itself (R85). -/
theorem forward_of_identity {a b : Int} (ha : a % 26 = 1) (hb : b % 26 = 0) {p : Nat} (hp : p < 26) :
    forward a b p = p := by
  rw [forward_congr (a' := 1) (b' := 0) ha hb]
  simp only [forward_eq]
  omega

/-- The forward map at the positions 0 and 1 tells the residues of the key (R103). -/
theorem residues_of_forward {a a' b b' : Int} (h0 : forward a b 0 = forward a' b' 0)
    (h1 : forward a b 1 = forward a' b' 1) : a % 26 = a' % 26 ∧ b % 26 = b' % 26 := by
  simp only [forward_eq] at h0 h1
  omega

/-! ### Characters -/

/-- Every character is the letter of one case at a position in 0..25, or no letter (R67, R68). -/
theorem letter_or_other (ch : CharCode) :
    (∃ base p : Nat, (base = 0x41 ∨ base = 0x61) ∧ p < 26 ∧ ch.toNat = base + p) ∨ classify ch = .other := by
  obtain ⟨p, hp, h, -⟩ | ⟨p, hp, h, -⟩ | ⟨-, -, h⟩ := char_cases ch
  · exact .inl ⟨0x41, p, .inl rfl, hp, h⟩
  · exact .inl ⟨0x61, p, .inr rfl, hp, h⟩
  · exact .inr h

/-- A letter is mapped to the letter of its case at its mapped position (R69, R71). -/
theorem mapLetter_letter {f : Int → Int} {ch : CharCode} {base p : Nat} (hbase : base = 0x41 ∨ base = 0x61)
    (hp : p < 26) (h : ch.toNat = base + p) : mapLetter f ch = BitVec.ofNat 8 (base + (f p).toNat) := by
  obtain rfl | rfl := hbase
  · exact mapLetter_upper hp h
  · exact mapLetter_lower hp h

/-- A map of positions that moves none moves no character (R85). -/
theorem mapLetter_of_identity {f : Int → Int} (hf : ∀ p : Nat, p < 26 → f p = p) (ch : CharCode) :
    mapLetter f ch = ch := by
  obtain ⟨base, p, hbase, hp, h⟩ | h := letter_or_other ch
  · rw [mapLetter_letter hbase hp h, hf p hp, Int.toNat_natCast, ← h, BitVec.ofNat_toNat, BitVec.setWidth_eq]
  · exact mapLetter_other h

/-- Mapping a character twice is mapping it once by the two maps of positions (R83). -/
theorem mapLetter_mapLetter {f g : Int → Int} (hf : ∀ p, 0 ≤ f p ∧ f p < 26) (ch : CharCode) :
    mapLetter g (mapLetter f ch) = mapLetter (fun p => g (f p)) ch := by
  obtain ⟨base, p, hbase, hp, h⟩ | h := letter_or_other ch
  · obtain ⟨hnonneg, hlt⟩ := hf p
    have hch : (BitVec.ofNat 8 (base + (f p).toNat) : CharCode).toNat = base + (f p).toNat := by
      rw [BitVec.toNat_ofNat]
      omega
    rw [mapLetter_letter hbase hp h, mapLetter_letter hbase hp h, mapLetter_letter hbase (by omega) hch,
      Int.toNat_of_nonneg hnonneg]
  · simp only [mapLetter_other h]

/-- The character ENC answers under the held key (R69). -/
def State.encChar (s : State) : CharCode → CharCode := mapLetter (forward s.aInt s.bInt)

/-- The character DEC answers under the held key (R71). -/
def State.decChar (s : State) : CharCode → CharCode := mapLetter (backward s.invAInt s.bInt)

/-- The ST = OK response with INV = 0 carries its character (R42). -/
theorem responseWord_ok_eq_okCharWord (ch : CharCode) : responseWord .ok 0#5 ch = okCharWord ch :=
  (responseWord_ok_char ch).trans (ofNat_toNat_eq_append ch)

/-- ENC under a held key answers its character (R69). -/
theorem exec_enc_encChar {s : State} (hk : s.keyValid = true) (ch : CharCode) :
    exec (.enc ch) s = .next (s.respond (okCharWord (s.encChar ch))) := by
  rw [exec_enc_eq, if_pos hk, responseWord_ok_eq_okCharWord]
  rfl

/-- DEC under a held key answers its character (R71). -/
theorem exec_dec_decChar {s : State} (hk : s.keyValid = true) (ch : CharCode) :
    exec (.dec ch) s = .next (s.respond (okCharWord (s.decChar ch))) := by
  rw [exec_dec_eq, if_pos hk, responseWord_ok_eq_okCharWord]
  rfl

/-- DEC undoes ENC under a key that meets the key invariant (R83). -/
theorem decChar_encChar {s : State} (hinv : s.KeyInv) (hk : s.keyValid = true) (ch : CharCode) :
    s.decChar (s.encChar ch) = ch := by
  obtain ⟨-, -, hone⟩ := hinv hk
  exact (mapLetter_mapLetter (forward_range _ _) ch).trans
    (mapLetter_of_identity (fun p => backward_forward hone s.bInt) ch)

/-- ENC undoes DEC under a key that meets the key invariant (R83). -/
theorem encChar_decChar {s : State} (hinv : s.KeyInv) (hk : s.keyValid = true) (ch : CharCode) :
    s.encChar (s.decChar ch) = ch := by
  obtain ⟨-, -, hone⟩ := hinv hk
  exact (mapLetter_mapLetter (backward_range _ _) ch).trans
    (mapLetter_of_identity (fun c => forward_backward hone s.bInt) ch)

/-- Held keys whose multipliers have one residue hold one inverse (R88). -/
theorem invAInt_eq_of_residues {s s' : State} (hinv : s.KeyInv) (hinv' : s'.KeyInv) (hk : s.keyValid = true)
    (hk' : s'.keyValid = true) (ha : s.a.toInt % 26 = s'.a.toInt % 26) : s.invAInt = s'.invAInt := by
  obtain ⟨-, hlt, hone⟩ := hinv hk
  obtain ⟨-, hlt', hone'⟩ := hinv' hk'
  have hone'' : s.a.toInt * s'.invA.toNat % 26 = 1 := Eq.trans (Int.ModEq.mul_right _ ha) hone'
  have hres := emod_eq_of_inverses hone hone''
  rw [State.invAInt, State.invAInt]
  omega

/-! ### Letters given by case and position -/

/-- A mapped letter is the letter of its case at position `c` exactly when `c` is its mapped position (R51, R73). -/
theorem mapCode_letter_response_iff {f : Int → Int} (hf : ∀ p, 0 ≤ f p ∧ f p < 26) {base p c : Nat}
    (hbase : base = 0x41 ∨ base = 0x61) (hp : p < 26) (hc : c < 26) :
    BitVec.ofNat 16 (mapCode f (BitVec.ofNat 8 (base + p) : CharCode).toNat) = BitVec.ofNat 16 (base + c) ↔
      f p = c := by
  have hrange := hf p
  have hmap : mapCode f (BitVec.ofNat 8 (base + p) : CharCode).toNat = base + (f p).toNat := by
    rw [BitVec.toNat_ofNat, Nat.mod_eq_of_lt (by omega)]
    obtain rfl | rfl := hbase
    · exact mapCode_upper f hp
    · exact mapCode_lower f hp
  rw [hmap, ← BitVec.toNat_inj, BitVec.toNat_ofNat, BitVec.toNat_ofNat]
  omega

/-- ENC answers a letter with the letter at its forward position (R69). -/
theorem answerOf_enc_letter_iff {s : State} (hk : s.keyValid = true) {base p c : Nat}
    (hbase : base = 0x41 ∨ base = 0x61) (hp : p < 26) (hc : c < 26) :
    answerOf (exec (.enc (BitVec.ofNat 8 (base + p))) s) = some (BitVec.ofNat 16 (base + c)) ↔
      forward s.aInt s.bInt p = c := by
  rw [← mapCode_letter_response_iff (forward_range _ _) hbase hp hc, exec_enc_held hk, forward_eq]
  exact Option.some_inj

/-- DEC answers a letter with the letter at its backward position (R71). -/
theorem answerOf_dec_letter_iff {s : State} (hk : s.keyValid = true) {base p c : Nat}
    (hbase : base = 0x41 ∨ base = 0x61) (hp : p < 26) (hc : c < 26) :
    answerOf (exec (.dec (BitVec.ofNat 8 (base + p))) s) = some (BitVec.ofNat 16 (base + c)) ↔
      backward s.invAInt s.bInt p = c := by
  rw [← mapCode_letter_response_iff (backward_range _ _) hbase hp hc, exec_dec_held hk, backward_eq]
  exact Option.some_inj

/-- Two held keys that answer ENC of an upper-case letter alike map its position alike (R103). -/
theorem forward_eq_of_answerOf_enc_eq {s s' : State} (hk : s.keyValid = true) (hk' : s'.keyValid = true) {p : Nat}
    (hp : p < 26) (h : answerOf (exec (.enc (BitVec.ofNat 8 (0x41 + p))) s) =
      answerOf (exec (.enc (BitVec.ofNat 8 (0x41 + p))) s')) :
    forward s.aInt s.bInt p = forward s'.aInt s'.bInt p := by
  obtain ⟨hnonneg, hlt⟩ := forward_range s'.aInt s'.bInt p
  obtain ⟨c, hc⟩ := Int.eq_ofNat_of_zero_le hnonneg
  have hanswer := (answerOf_enc_letter_iff hk' (.inl rfl) hp (by omega)).2 hc
  rw [hc, (answerOf_enc_letter_iff hk (.inl rfl) hp (by omega)).1 (h.trans hanswer)]

/-! ### Texts -/

/-- A text operation: one exchange for each character (R49, R78). ENCRYPT and DECRYPT are those of ENC and DEC. -/
def textActions (cmd : CharCode → Instr) (text : List CharCode) : List HostAction :=
  text.flatMap fun ch => exchange (cmd ch)

theorem encryptActions_eq (text : List CharCode) : encryptActions text = textActions .enc text := rfl

theorem decryptActions_eq (text : List CharCode) : decryptActions text = textActions .dec text := rfl

/-- Every character's command answers `resp` of the character and changes nothing else, whatever the host is to do and
has seen (R75). -/
def State.AnswersEach (s : State) (cmd : CharCode → Instr) (resp : CharCode → ResponseWord) : Prop :=
  ∀ (ch : CharCode) (host : List HostAction) (observed : List ResponseWord),
    exec (cmd ch) { s with host := host, observed := observed } =
      .next (({ s with host := host, observed := observed } : State).respond (resp ch))

theorem answersEach_enc {s : State} (hk : s.keyValid = true) :
    s.AnswersEach .enc fun ch => okCharWord (s.encChar ch) :=
  fun ch host observed => exec_enc_encChar (s := { s with host := host, observed := observed }) hk ch

theorem answersEach_dec {s : State} (hk : s.keyValid = true) :
    s.AnswersEach .dec fun ch => okCharWord (s.decChar ch) :=
  fun ch host observed => exec_dec_decChar (s := { s with host := host, observed := observed }) hk ch

theorem answersEach_enc_unheld {s : State} (hk : s.keyValid = false) : s.AnswersEach .enc fun _ => 0x8000#16 :=
  fun ch host observed => exec_enc_unheld (s := { s with host := host, observed := observed }) hk ch

theorem answersEach_dec_unheld {s : State} (hk : s.keyValid = false) : s.AnswersEach .dec fun _ => 0x8000#16 :=
  fun ch host observed => exec_dec_unheld (s := { s with host := host, observed := observed }) hk ch

/-- One exchange of a command that only answers: the response is recorded and nothing else is changed (R28). -/
theorem runSteps_exchange_of_answer {s : State} {i : Instr} {r : ResponseWord} {rest : List HostAction}
    (hw : i.WellFormed) (hr : s.response = none)
    (h : exec i { s with host := .take :: rest } = .next (({ s with host := .take :: rest } : State).respond r)) :
    runSteps 2 { s with host := exchange i ++ rest } =
      .next { s with host := rest, observed := s.observed ++ [r] } := by
  have hcommand : step { s with host := exchange i ++ rest } = _ :=
    (stepRunsThePresentedCommand { s with host := exchange i ++ rest } (encode i) (.take :: rest) i rfl hr
      (decodeOfEncodeIsTheCommand i hw)).trans h
  have htake : step (({ s with host := .take :: rest } : State).respond r) = _ := step_take rfl rfl
  simp only [runSteps, hcommand, htake]
  simp only [State.deliver, State.respond, hr]

/-- A text operation takes two steps a character, records the answer to each, first character first, and changes
nothing else (R78, R79, R80). -/
theorem runSteps_textActions {cmd : CharCode → Instr} {resp : CharCode → ResponseWord}
    (hw : ∀ ch, (cmd ch).WellFormed) (text : List CharCode) (rest : List HostAction) {s : State}
    (hans : s.AnswersEach cmd resp) (hr : s.response = none) :
    runSteps (2 * text.length) { s with host := textActions cmd text ++ rest } =
      .next { s with host := rest, observed := s.observed ++ text.map resp } := by
  induction text generalizing s with
  | nil =>
    rw [List.map_nil, List.append_nil]
    rfl
  | cons ch text ih =>
    have hfirst := runSteps_exchange_of_answer (hw ch) hr (hans ch (.take :: (textActions cmd text ++ rest)) s.observed)
    have hrest := ih (s := { s with observed := s.observed ++ [resp ch] }) (fun ch' host _ => hans ch' host _) hr
    rw [List.length_cons, Nat.mul_succ, Nat.add_comm]
    refine (runSteps_add hfirst _).trans (hrest.trans ?_)
    rw [List.append_assoc]
    rfl

/-- A text operation whose commands answer characters maps each character of the text by itself (R80, R81). -/
theorem textActions_map_each_character {cmd : CharCode → Instr} {f : CharCode → CharCode}
    (hw : ∀ ch, (cmd ch).WellFormed) (text : List CharCode) (rest : List HostAction) {s : State}
    (hans : s.AnswersEach cmd fun ch => okCharWord (f ch)) (hr : s.response = none) :
    ∃ u : List CharCode, u.length = text.length ∧
      (∀ (k : Nat) (ch : CharCode), text[k]? = some ch →
        ∃ x, u[k]? = some x ∧ answerOf (exec (cmd ch) s) = some (okCharWord x)) ∧
      runSteps (2 * text.length) { s with host := textActions cmd text ++ rest } =
        .next { s with host := rest, observed := s.observed ++ u.map okCharWord } := by
  refine ⟨text.map f, List.length_map f, fun k ch hch => ⟨f ch, ?_, ?_⟩, ?_⟩
  · rw [List.getElem?_map, hch]
    rfl
  · exact congrArg answerOf (hans ch s.host s.observed)
  · rw [List.map_map]
    exact runSteps_textActions hw text rest hans hr

/-- A text operation and then, on its result, one that undoes it on every character give the text back (R84). -/
theorem textActions_then_inverse {cmd cmd' : CharCode → Instr} {f g : CharCode → CharCode}
    (hw : ∀ ch, (cmd ch).WellFormed) (hw' : ∀ ch, (cmd' ch).WellFormed) (text : List CharCode) {s : State}
    (hans : s.AnswersEach cmd fun ch => okCharWord (f ch)) (hans' : s.AnswersEach cmd' fun ch => okCharWord (g ch))
    (hgf : ∀ ch, g (f ch) = ch) (hr : s.response = none) :
    runSteps (4 * text.length) { s with host := textActions cmd text ++ textActions cmd' (text.map f) } =
      .next { s with host := [], observed := s.observed ++ (text.map f).map okCharWord ++ text.map okCharWord } := by
  have hfirst := runSteps_textActions hw text (textActions cmd' (text.map f)) hans hr
  have hsecond := runSteps_textActions hw' (text.map f) []
    (s := { s with observed := s.observed ++ text.map fun ch => okCharWord (f ch) })
    (fun ch host _ => hans' ch host _) hr
  have hlen : 4 * text.length = 2 * text.length + 2 * (text.map f).length := by
    rw [List.length_map]
    omega
  rw [List.append_nil] at hsecond
  rw [hlen, runSteps_add hfirst]
  simpa only [List.map_map, Function.comp_def, hgf] using hsecond

/-- A map of characters that moves letters only leaves every other character of a text in its place (R84). -/
theorem getElem?_map_mapLetter_other {f : Int → Int} {text : List CharCode} {k : Nat} {ch : CharCode}
    (h : text[k]? = some ch)
    (hother : ch.toNat < 0x41 ∨ (0x5A < ch.toNat ∧ ch.toNat < 0x61) ∨ 0x7A < ch.toNat) :
    (text.map (mapLetter f))[k]? = some ch := by
  rw [List.getElem?_map, h, Option.map_some, mapLetter_other (classify_other (by omega) (by omega))]

/-! ### The obligations -/

/-- Settles O42: both operations are texts of commands that only answer, by ENC and by DEC of the held key. -/
theorem textOperationMapsEachCharacter : Obligations.TextOperationMapsEachCharacter := by
  intro s text rest hk hr
  rw [encryptActions_eq, decryptActions_eq]
  exact ⟨textActions_map_each_character (fun _ => rfl) text rest (answersEach_enc hk) hr,
    textActions_map_each_character (fun _ => rfl) text rest (answersEach_dec hk) hr⟩

/-- Settles O44: ENC and DEC undo each other on every character, so the two text operations do on every text. -/
theorem decryptOfEncryptIsTheText : Obligations.DecryptOfEncryptIsTheText := by
  intro s text hinv hk hr
  refine ⟨⟨text.map s.encChar, List.length_map _, fun k ch => getElem?_map_mapLetter_other, ?_⟩,
    ⟨text.map s.decChar, List.length_map _, fun k ch => getElem?_map_mapLetter_other, ?_⟩⟩
  · rw [encryptActions_eq, decryptActions_eq]
    exact textActions_then_inverse (fun _ => rfl) (fun _ => rfl) text (answersEach_enc hk) (answersEach_dec hk)
      (decChar_encChar hinv hk) hr
  · rw [encryptActions_eq, decryptActions_eq]
    exact textActions_then_inverse (fun _ => rfl) (fun _ => rfl) text (answersEach_dec hk) (answersEach_enc hk)
      (encChar_decChar hinv hk) hr

/-- Settles O31: the second command finds the key of the first, and undoes it. -/
theorem roundTripOfOneCharacter : Obligations.RoundTripOfOneCharacter := by
  intro s ch hinv hk
  refine ⟨⟨s.encChar ch, _, exec_enc_encChar hk ch, rfl, ?_⟩, ⟨s.decChar ch, _, exec_dec_decChar hk ch, rfl, ?_⟩⟩
  · rw [exec_dec_decChar (s := s.respond _) hk]
    exact congrArg (fun x => some (okCharWord x)) (decChar_encChar hinv hk ch)
  · rw [exec_enc_encChar (s := s.respond _) hk]
    exact congrArg (fun x => some (okCharWord x)) (encChar_decChar hinv hk ch)

/-- Settles O32: the preimage of the letter at `c` is the letter at the backward position of `c`. -/
theorem eachKeyPermutesEachCase : Obligations.EachKeyPermutesEachCase := by
  intro s base c hinv hk hbase hc
  obtain ⟨-, -, hone⟩ := hinv hk
  obtain ⟨hnonneg, hlt⟩ := backward_range s.invAInt s.bInt c
  obtain ⟨p, hp⟩ := Int.eq_ofNat_of_zero_le hnonneg
  have hp26 : p < 26 := by omega
  refine ⟨p, hp26, ?_, ?_, fun q hq hanswer => ?_⟩
  · rw [answerOf_enc_letter_iff hk hbase hp26 hc, ← hp]
    exact forward_backward hone s.bInt hc
  · rwa [answerOf_dec_letter_iff hk hbase hc hp26]
  · rw [answerOf_enc_letter_iff hk hbase hq hc] at hanswer
    have hback : backward s.invAInt s.bInt (forward s.aInt s.bInt q) = q := backward_forward hone s.bInt hq
    rw [hanswer, hp] at hback
    exact (Int.ofNat_inj.1 hback).symm

/-- Settles O33: ENC moves no character, so DEC, which undoes it, moves none. -/
theorem identityKeysPassEverything : Obligations.IdentityKeysPassEverything := by
  intro s ch hinv hk ha hb
  have henc : s.encChar ch = ch := mapLetter_of_identity (fun p => forward_of_identity ha hb) ch
  have hdec : s.decChar ch = ch := by
    have h := decChar_encChar hinv hk ch
    rwa [henc] at h
  rw [exec_enc_encChar hk, exec_dec_decChar hk, henc, hdec]
  exact ⟨rfl, rfl⟩

/-- Settles O34: both maps see residues only, the inverses of equal residues being equal; and the positions that 'A'
and 'B' are mapped to tell the residues. -/
theorem onlyTheResiduesOfTheKeyMatter : Obligations.OnlyTheResiduesOfTheKeyMatter := by
  refine ⟨fun s s' hinv hinv' hk hk' => ⟨fun ⟨ha, hb⟩ ch => ?_, fun ⟨hA, hB⟩ => ?_⟩, fun a a' h => ?_⟩
  · have hi := invAInt_eq_of_residues hinv hinv' hk hk' ha
    have henc : s.encChar = s'.encChar := congrArg mapLetter (forward_congr ha hb)
    have hdec : s.decChar = s'.decChar := congrArg mapLetter (hi ▸ backward_congr s.invAInt hb)
    rw [exec_enc_encChar hk, exec_enc_encChar hk', exec_dec_decChar hk, exec_dec_decChar hk', henc, hdec]
    exact ⟨rfl, rfl⟩
  · exact residues_of_forward (forward_eq_of_answerOf_enc_eq hk hk' (p := 0) (by decide) hA)
      (forward_eq_of_answerOf_enc_eq hk hk' (p := 1) (by decide) hB)
  · exact ⟨by rw [← keychk_emod, h, keychk_emod], by rw [← modinv26_emod, h, modinv26_emod]⟩

/-- Settles O43: both operations are texts of commands that only answer, all with NO_KEY. -/
theorem textWithoutKeyFailsAsAWhole : Obligations.TextWithoutKeyFailsAsAWhole := by
  intro s text rest hk hr
  rw [encryptActions_eq, decryptActions_eq, ← List.map_const']
  exact ⟨runSteps_textActions (fun _ => rfl) text rest (answersEach_enc_unheld hk) hr,
    runSteps_textActions (fun _ => rfl) text rest (answersEach_dec_unheld hk) hr⟩

end Sys2Proof.Machine
end

section
/-! Scope: the errors of a command word (R92 to R99): the order of checks, the cause of each error, and the state an
error leaves. -/

namespace Sys2Proof.Machine

/-! ### The order of checks on a word -/

/-- The first check a word fails, in the order of R99: illegal word, no key for a mapper, the gate of LOADKEY. -/
def State.statusOf (s : State) (w : CommandWord) : Status :=
  if w.toNat / 0x40000000 = 0 ∨ w.toNat / 0x1000000 % 0x40 ≠ 0 then .illegalCmd
  else if (w.toNat / 0x40000000 = 2 ∨ w.toNat / 0x40000000 = 3) ∧ s.keyValid = false then .noKey
  else if w.toNat / 0x40000000 = 1 ∧ Int.gcd (signedByte (w.toNat / 0x10000 % 0x100)) 26 ≠ 1 then .invalidKey
  else .ok

/-- A word that is no command fails the first check (R44). -/
theorem State.statusOf_of_error {w : CommandWord} {e : DecodeError} (h : decode w = .error e) (s : State) :
    s.statusOf w = .illegalCmd := by
  have hlt := w.isLt
  have htop := decode_error_toNat h
  exact if_pos (by omega)

/-- A LOADKEY can fail the gate only (R93). -/
theorem State.statusOf_of_loadkey {w : CommandWord} {a b : Int} (h : decode w = .ok (.loadkey a b)) (s : State) :
    s.statusOf w = if keychk a then .ok else .invalidKey := by
  obtain ⟨htop, rfl, -⟩ := decode_loadkey_toNat h
  have hop : w.toNat / 0x40000000 = 1 := by omega
  rw [statusOf, if_neg (by omega), if_neg (by omega)]
  simp only [hop, true_and, ne_eq, keychk_eq_true, ite_not]

/-- A word with the top byte of ENC or DEC can fail for want of a key only (R94). -/
theorem State.statusOf_of_mapper {w : CommandWord} (h : w.toNat / 0x1000000 = 0x80 ∨ w.toNat / 0x1000000 = 0xC0)
    (s : State) : s.statusOf w = if s.keyValid then .ok else .noKey := by
  have hop : w.toNat / 0x40000000 = 2 ∨ w.toNat / 0x40000000 = 3 := by omega
  rw [statusOf, if_neg (by omega)]
  cases s.keyValid with
  | false => exact if_pos ⟨hop, rfl⟩
  | true =>
    rw [if_neg (fun hkey => Bool.noConfusion hkey.2), if_neg (by omega)]
    rfl

/-! ### The cause of each error -/

/-- ILLEGAL_CMD has the reserved OP or a non-zero RSV as its cause (R95). -/
theorem State.statusOf_eq_illegalCmd_iff (s : State) (w : CommandWord) :
    s.statusOf w = .illegalCmd ↔ w.toNat / 0x40000000 = 0 ∨ w.toNat / 0x1000000 % 0x40 ≠ 0 := by
  unfold statusOf
  split_ifs with hill
  · exact iff_of_true rfl hill
  all_goals exact iff_of_false nofun hill

/-- NO_KEY has a mapper without a key as its cause (R94). -/
theorem State.statusOf_eq_noKey_iff (s : State) (w : CommandWord) :
    s.statusOf w = .noKey ↔ s.keyValid = false ∧ (w.toNat / 0x1000000 = 0x80 ∨ w.toNat / 0x1000000 = 0xC0) := by
  unfold statusOf
  split_ifs with hill hkey
  · exact iff_of_false nofun (by omega)
  · obtain ⟨hop, hk⟩ := hkey
    exact iff_of_true rfl ⟨hk, by omega⟩
  all_goals exact iff_of_false nofun fun ⟨hk, htop⟩ => hkey ⟨by omega, hk⟩

/-- INVALID_KEY has a LOADKEY with `a` not coprime with 26 as its cause (R93). -/
theorem State.statusOf_eq_invalidKey_iff (s : State) (w : CommandWord) :
    s.statusOf w = .invalidKey ↔
      w.toNat / 0x1000000 = 0x40 ∧ Int.gcd (signedByte (w.toNat / 0x10000 % 0x100)) 26 ≠ 1 := by
  unfold statusOf
  split_ifs with hill hkey hgate
  · exact iff_of_false nofun (by omega)
  · exact iff_of_false nofun (by omega)
  · exact iff_of_true rfl (by omega)
  · exact iff_of_false nofun (by omega)

/-! ### What is answered with a status -/

/-- ST is the two top bits of a response (R42). -/
theorem responseWord_status (st : Status) (inv : InvWord) (ch : CharCode) :
    (responseWord st inv ch).toNat / 0x4000 = st.code.toNat := by
  have hinv := inv.isLt
  have hch := ch.isLt
  rw [responseWord_toNat]
  omega

/-- Different statuses have different ST codes (R43). -/
theorem Status.code_toNat_inj {st st' : Status} (h : st.code.toNat = st'.code.toNat) : st = st' := by
  cases st <;> cases st' <;> revert h <;> decide

/-- The outcome, from `s`, is a response with that status in ST; and an error writes that response alone, with INV = 0
and CH = 0 (R92). -/
def State.AnswersStatus (s : State) (o : Host.Outcome State Fault Refusal) (st : Status) : Prop :=
  ∃ t r, o = .next t ∧ t.response = some r ∧ r.toNat / 0x4000 = st.code.toNat ∧
    (st ≠ .ok → t = s.respond (responseWord st 0#5 0#8))

/-- Writing the response word of a status answers that status (R92). -/
theorem State.answersStatus_respond (s : State) (st : Status) :
    s.AnswersStatus (.next (s.respond (responseWord st 0#5 0#8))) st :=
  ⟨_, _, rfl, rfl, responseWord_status st 0#5 0#8, fun _ => rfl⟩

/-- A response with ST = OK answers OK, whatever else the command writes. -/
theorem State.answersStatus_ok (s t : State) (inv : InvWord) (ch : CharCode) :
    s.AnswersStatus (.next (t.respond (responseWord .ok inv ch))) .ok :=
  ⟨_, _, rfl, rfl, responseWord_status .ok inv ch, fun h => absurd rfl h⟩

/-- An error word is the answer exactly for its own status, and then the only thing written (R92). -/
theorem State.AnswersStatus.error_iff {s : State} {o : Host.Outcome State Fault Refusal} {st : Status}
    (h : s.AnswersStatus o st) : ∃ t, o = .next t ∧ ∀ e : Status, e ≠ .ok →
      (t.response = some (responseWord e 0#5 0#8) ↔ st = e) ∧
      (t.response = some (responseWord e 0#5 0#8) → t = s.respond (responseWord e 0#5 0#8)) := by
  obtain ⟨t, r, ht, hresp, hst, hwrites⟩ := h
  refine ⟨t, ht, fun e he => ?_⟩
  have hstatus (hword : t.response = some (responseWord e 0#5 0#8)) : st = e := by
    cases hresp.symm.trans hword
    exact Status.code_toNat_inj (hst.symm.trans (responseWord_status e 0#5 0#8))
  have hnext (heq : st = e) : t = s.respond (responseWord e 0#5 0#8) := heq ▸ hwrites (heq ▸ he)
  exact ⟨⟨hstatus, fun heq => congrArg State.response (hnext heq)⟩, fun hword => hnext (hstatus hword)⟩

/-- LOADKEY answers OK under the gate and INVALID_KEY without it (R58). -/
theorem answersStatus_loadkey {a : Int} (ha : fitsKeyField a = true) (b : Int) (s : State) :
    s.AnswersStatus (exec (.loadkey a b) s) (if keychk a then .ok else .invalidKey) := by
  rw [exec_loadkey_fields_eq, sext8_keyOperand ha]
  split
  · exact s.answersStatus_ok _ _ _
  · exact s.answersStatus_respond .invalidKey

/-- What a character mapper answers is OK with a key held and NO_KEY without (R69, R71). -/
theorem State.answersStatus_mapper (s : State) (ch : CharCode) :
    s.AnswersStatus (.next (s.respond (if s.keyValid then responseWord .ok 0#5 ch else responseWord .noKey 0#5 0#8)))
      (if s.keyValid then .ok else .noKey) := by
  split
  · exact s.answersStatus_ok s 0#5 ch
  · exact s.answersStatus_respond .noKey

/-- Every word answers the status of the first check it fails (R99). -/
theorem runWord_answersStatus (w : CommandWord) (s : State) : s.AnswersStatus (runWord w s) (s.statusOf w) := by
  rcases hd : decode w with e | ⟨a, b⟩ | ch | ch
  · rw [runWord_of_error hd, State.statusOf_of_error hd]
    exact s.answersStatus_respond .illegalCmd
  all_goals simp only [runWord, hd]
  · obtain ⟨ha, -⟩ := (Bool.and_eq_true_iff ..).1 (decode_wellFormed hd)
    rw [State.statusOf_of_loadkey hd]
    exact answersStatus_loadkey ha b s
  · obtain ⟨htop, -⟩ := decode_enc_toNat hd
    rw [State.statusOf_of_mapper (.inl htop), exec_enc_eq]
    exact s.answersStatus_mapper _
  · obtain ⟨htop, -⟩ := decode_dec_toNat hd
    rw [State.statusOf_of_mapper (.inr htop), exec_dec_eq]
    exact s.answersStatus_mapper _

/-! ### The obligations -/

/-- Settles O13: the word answers the status of the first check it fails, as an ST code. -/
theorem statusFollowsTheOrderOfChecks : Obligations.StatusFollowsTheOrderOfChecks := by
  intro s w rest hh hr
  obtain ⟨t, r, ht, hresp, hst, -⟩ := runWord_answersStatus w { s with host := rest }
  refine ⟨t, r, (step_command hh hr).trans ht, hresp, hst.trans ?_⟩
  simp only [State.statusOf, apply_ite Status.code, apply_ite BitVec.toNat]
  rfl

/-- Settles O14: an error word is the answer exactly for its status, a status has exactly its cause, and an error
writes its response alone. -/
theorem eachErrorHasExactlyItsCause : Obligations.EachErrorHasExactlyItsCause := by
  intro s w rest hh hr
  obtain ⟨t, ht, herror⟩ := (runWord_answersStatus w { s with host := rest }).error_iff
  obtain ⟨hkey, hkeyFrame⟩ := herror .invalidKey nofun
  obtain ⟨hnoKey, hnoKeyFrame⟩ := herror .noKey nofun
  obtain ⟨hillegal, hillegalFrame⟩ := herror .illegalCmd nofun
  refine ⟨t, (step_command hh hr).trans ht, ?_, ?_, ?_, ?_⟩
  · exact hkey.trans (State.statusOf_eq_invalidKey_iff _ w)
  · exact hnoKey.trans (State.statusOf_eq_noKey_iff _ w)
  · exact hillegal.trans (State.statusOf_eq_illegalCmd_iff _ w)
  · simp only [List.forall_mem_cons]
    exact ⟨hkeyFrame, hnoKeyFrame, hillegalFrame, nofun⟩

end Sys2Proof.Machine
end

section
/-! Scope: the reset event seen from the step (R110, R111). -/

namespace Sys2Proof.Machine

/-- Settles O10: the core never holds a reset back, and the state it leads to is read off field by field. -/
theorem resetEventLeavesNoKeyAndNoResponse : Obligations.ResetEventLeavesNoKeyAndNoResponse := by
  intro s rest hh
  exact ⟨_, step_reset hh, State.resetEvent_keyValid _, State.resetEvent_response _, State.resetEvent_host _,
    State.resetEvent_observed _⟩

end Sys2Proof.Machine
end
